-- ==== Sys2Proof/Word.lean ====
section
/-! DEFINITION. The word and the word pair (00_scope.md R7, R8, R13). -/

namespace Sys2Proof

/-- A word, 64 bits wide (R7, R13 "Word"). -/
abbrev Word := BitVec 64

/-- A 128-bit value made of two words (R8, R35): `hi` holds bits 127..64, `lo` bits 63..0. It carries no tag saying
whether it is read as Uint128 or as Int128 (R23). -/
structure WordPair where
  hi : Word
  lo : Word
deriving DecidableEq, Repr

end Sys2Proof
end

