-- ==== Sys2Proof/Machine/Arith.lean ====
section
/-! DEFINITION. The notation of 00_scope.md R8, R9, R11, R13: the two readings of a word pair, the wrapping functions
`w128` and `w64`, bit selection, bit length, and the named constants. -/

namespace Sys2Proof

/-- `u(x)`, the unsigned reading (R9): `x.hi * 2^64 + x.lo`. -/
def WordPair.u (x : WordPair) : Nat := x.hi.toNat * 2 ^ 64 + x.lo.toNat

/-- The sign bit `x.hi[63]` (R9, R13 "Int128"). -/
def WordPair.sign (x : WordPair) : Bool := x.hi.getLsbD 63

/-- `s(x)`, the two's-complement reading (R9). -/
def WordPair.s (x : WordPair) : Int := if x.sign then (x.u : Int) - 2 ^ 128 else x.u

/-- Bit i of a value (R8, R35): bit i of lo for i < 64, bit i - 64 of hi above. -/
def WordPair.bit (x : WordPair) (i : Nat) : Bool := if i < 64 then x.lo.getLsbD i else x.hi.getLsbD (i - 64)

/-- `~x`, both words complemented (R11). -/
def WordPair.complement (x : WordPair) : WordPair := ⟨~~~x.hi, ~~~x.lo⟩

/-- `w64(v)`: the word equal to `v mod 2^64` (R9). -/
def w64 (v : Int) : Word := BitVec.ofNat 64 (v % 2 ^ 64).toNat

/-- `w128(v)`: the word pair whose unsigned reading is `v mod 2^128`, the remainder Euclidean (R9). -/
def w128 (v : Int) : WordPair := ⟨BitVec.ofNat 64 ((v % 2 ^ 128).toNat / 2 ^ 64), BitVec.ofNat 64 ((v % 2 ^ 128).toNat % 2 ^ 64)⟩

/-- `zext_128(w)` (R10, R50). -/
def zext128 (w : Word) : WordPair := ⟨0, w⟩

/-- `s64(w)`: a word read as two's complement (R52). -/
def s64 (w : Word) : Int := if w.getLsbD 63 then (w.toNat : Int) - 2 ^ 64 else w.toNat

/-- `bitlen(v)`: the least n with `v < 2^n` (R11). -/
def bitlen (v : Nat) : Nat := if v = 0 then 0 else Nat.log2 v + 1

/-- Zero (R13). -/
def zeroPair : WordPair := ⟨0, 0⟩
/-- MaxUint128 (R13). -/
def maxUint128 : WordPair := ⟨0xFFFFFFFFFFFFFFFF, 0xFFFFFFFFFFFFFFFF⟩
/-- MaxInt128 (R13). -/
def maxInt128 : WordPair := ⟨0x7FFFFFFFFFFFFFFF, 0xFFFFFFFFFFFFFFFF⟩
/-- MinInt128 (R13). -/
def minInt128 : WordPair := ⟨0x8000000000000000, 0⟩

end Sys2Proof
end

