-- ==== Sys2Proof/Syntax.lean ====
section
/-! DEFINITION. The syntax: the 20 operations and their instructions (30_encoding.md R46, R48), the request (R18, R45),
and the host's written forms: operands (R59), pseudo-instructions (R60) and program statements (R61). -/

namespace Sys2Proof

/-- The twenty mnemonics of R46, in the order of the opcode table. -/
inductive Mnemonic where
  | add | add64 | inc
  | sub | sub64 | dec
  | mul | mul64
  | divu64 | divu
  | neg
  | lsh | rsh | rotl
  | cmps | cmpu | cmpu64
  | cvtf2u | cvtu2f | cvti2f
deriving DecidableEq, Repr

/-- An instruction: an operation with the two operands its request carries. Every request has the one format of R45, so
every constructor holds A and B whole; which bits an operation reads is R48's matter, not the syntax's. -/
inductive Instr where
  | add (a b : WordPair)
  | add64 (a b : WordPair)
  | inc (a b : WordPair)
  | sub (a b : WordPair)
  | sub64 (a b : WordPair)
  | dec (a b : WordPair)
  | mul (a b : WordPair)
  | mul64 (a b : WordPair)
  | divu64 (a b : WordPair)
  | divu (a b : WordPair)
  | neg (a b : WordPair)
  | lsh (a b : WordPair)
  | rsh (a b : WordPair)
  | rotl (a b : WordPair)
  | cmps (a b : WordPair)
  | cmpu (a b : WordPair)
  | cmpu64 (a b : WordPair)
  | cvtf2u (a b : WordPair)
  | cvtu2f (a b : WordPair)
  | cvti2f (a b : WordPair)
deriving DecidableEq, Repr

/-- A request (R18): the operation select and the two operands, as the host presents them. -/
structure Request where
  op : BitVec 5
  a : WordPair
  b : WordPair
deriving DecidableEq, Repr

/-- Why a request names no operation (R57): its code is one of the reserved ones. -/
inductive DecodeError where
  | reservedCode (op : BitVec 5)
deriving DecidableEq, Repr

/-- The outputs of a kept response that a host statement can name (R59, R61). -/
inductive Output where
  | y | z | cf | ir | ex
deriving DecidableEq, Repr

/-- A decimal real, `(-1)^neg * digits * 10^exp`, as written in the operand form `f64(x)` (R59). -/
structure Decimal where
  neg : Bool
  digits : Nat
  exp : Int
deriving DecidableEq, Repr

/-- The operand forms of R59 that need no record. -/
inductive Literal where
  /-- `{0xH, 0xL}` -/
  | pair (hi lo : Word)
  /-- decimal `n` or `-n` -/
  | dec (n : Int)
  /-- `0x...` with at most 16 hex digits -/
  | hex (v : Nat)
  | maxu
  | maxs
  | mins
  | zero
  /-- `f64(x)`, for CVTF2U -/
  | f64 (x : Decimal)
deriving DecidableEq, Repr

/-- The operand forms of R59. -/
inductive Operand where
  | lit (l : Literal)
  /-- `rN.Y`, `rN.Z`, or a flag as `{0, flag}` -/
  | record (n : Nat) (o : Output)
  /-- `rN.Y.lo` -/
  | recordYLo (n : Nat)
deriving DecidableEq, Repr

/-- The pseudo-instructions of R60 that issue a request. -/
inductive Pseudo where
  | quo | rem | quo64 | rem64
  | rotr
  | adds | subs | muls
  | eq | ne | ltu | leu | gtu | geu
  | lts | les | gts | ges
deriving DecidableEq, Repr

/-- A request as it is written (R58, R60): by mnemonic, with a second operand or none; as a raw code `.op 0xNN a, b`,
reserved codes included; or by a pseudo-instruction. -/
inductive Call where
  | op (m : Mnemonic) (a : Operand) (b : Option Operand)
  | raw (code : BitVec 5) (a b : Operand)
  | pseudo (p : Pseudo) (a b : Operand)
deriving DecidableEq, Repr

/-- The statements of a host program (R61), and the pseudo-instruction `NOP`, for which the host issues no request (R60). -/
inductive Stmt where
  /-- `rN = MNEMONIC a, b` -/
  | request (dst : Nat) (call : Call)
  /-- `if rN.F == v goto L` -/
  | ifEq (n : Nat) (f : Output) (v : Literal) (target : Nat)
  /-- `if rN.F != v goto L` -/
  | ifNe (n : Nat) (f : Output) (v : Literal) (target : Nat)
  | goto (target : Nat)
  | halt
  | nop
deriving DecidableEq, Repr

end Sys2Proof
end

