-- ==== Sys2Proof/Machine/Float.lean ====
section
/-! DEFINITION. The float64 format and the conversion functions of 47_converters.md: R97 (fields), R98 (values), R100
(`f2u`), R102 (`rne`), and the assembler's `f64(x)` (30_encoding.md R59). R97 and R98 are IEEE 754 binary64, which the
spec marks as general knowledge (assumption 15, PRESUMED by the spec). -/

namespace Sys2Proof

/-- The three fields of a float64 pattern (R97). -/
structure F64Fields where
  sign : Bool
  exponent : Nat
  fraction : Nat
deriving DecidableEq, Repr

/-- R97: `S = bits[63]`, `E = bits[62:52]`, `F = bits[51:0]`. -/
def f64Fields (bits : Word) : F64Fields where
  sign := bits.getLsbD 63
  exponent := bits.toNat / 2 ^ 52 % 2 ^ 11
  fraction := bits.toNat % 2 ^ 52

/-- What a pattern denotes (R98): a NaN, an infinity, or a finite value `(-1)^neg * m * 2^e`. -/
inductive F64Value where
  | nan
  | inf (neg : Bool)
  | finite (neg : Bool) (m : Nat) (e : Int)
deriving DecidableEq, Repr

/-- R98: the value of a pattern. Zeros and subnormals have `m = F`, `e = -1074`; normals `m = 2^52 + F`, `e = E - 1075`. -/
def f64Value (bits : Word) : F64Value :=
  let f := f64Fields bits
  if f.exponent = 0x7FF then
    if f.fraction = 0 then .inf f.sign else .nan
  else if f.exponent = 0 then .finite f.sign f.fraction (-1074)
  else .finite f.sign (2 ^ 52 + f.fraction) (f.exponent - 1075)

/-- The real number a finite pattern denotes, as a rational; a NaN or an infinity denotes none (R98). -/
def F64Value.toRat : F64Value → Option ℚ
  | .nan => none
  | .inf _ => none
  | .finite neg m e => some ((if neg then -1 else 1) * (m : ℚ) * (2 : ℚ) ^ e)

/-- The result of `f2u`: the integer and the two flags (R100). -/
structure F2U where
  y : WordPair
  ir : Bool
  ex : Bool
deriving DecidableEq, Repr

/-- R100: float64 to Uint128, clamping what is out of range and truncating fractions toward zero. The cases stand in
the rule's order. -/
def f2u (bits : Word) : F2U :=
  let f := f64Fields bits
  if f.exponent = 0x7FF ∧ f.fraction ≠ 0 then ⟨zeroPair, false, false⟩
  else if f.exponent = 0x7FF ∧ f.sign = false then ⟨maxUint128, false, false⟩
  else if f.exponent = 0x7FF then ⟨zeroPair, false, false⟩
  else if f.exponent = 0 ∧ f.fraction = 0 then ⟨zeroPair, true, true⟩
  else if f.sign = true then ⟨zeroPair, false, false⟩
  else if f.exponent = 0 then ⟨zeroPair, true, false⟩
  else
    let m := 2 ^ 52 + f.fraction
    if 1075 + 76 ≤ f.exponent then ⟨maxUint128, false, false⟩
    else if 1075 ≤ f.exponent then ⟨w128 (m * 2 ^ (f.exponent - 1075) : Nat), true, true⟩
    else
      let k := 1075 - f.exponent
      ⟨w128 (m / 2 ^ k : Nat), true, m % 2 ^ k = 0⟩

/-- A rounding of a non-negative integer below 2^128 to float64 (R102): the pattern, and whether it is exact. The
parameter `U2F_ROUND` ranges over these (92_eei_decisions.md). -/
abbrev Rounding := Nat → Word × Bool

/-- R102: the significand `m` of `v` before the carry into the exponent is looked at, and whether it is exact: `v`
scaled up to 53 bits, or its top 53 bits rounded to nearest, ties to even. -/
def rneSignificand (v : Nat) : Nat × Bool :=
  let n := bitlen v
  if n ≤ 53 then (v * 2 ^ (53 - n), true)
  else
    let s := n - 53
    let m := v / 2 ^ s
    let rem := v % 2 ^ s
    let half := 2 ^ (s - 1)
    (if half < rem ∨ (rem = half ∧ m % 2 = 1) then m + 1 else m, rem = 0)

/-- R102: round to nearest, ties to even. -/
def rne : Rounding := fun v =>
  if v = 0 then (0, true)
  else
    let e := bitlen v - 1
    let (m, exact) := rneSignificand v
    if m = 2 ^ 53 then (w64 ((e + 1 + 1023) * 2 ^ 52 : Nat), exact)
    else (w64 ((e + 1023) * 2 ^ 52 + (m - 2 ^ 52) : Nat), exact)

/-- The pattern with the given fields, `sign ‖ E ‖ F` (R97). -/
def f64Pack (neg : Bool) (exponent fraction : Nat) : Word :=
  BitVec.ofNat 64 ((if neg then 2 ^ 63 else 0) + exponent * 2 ^ 52 + fraction)

/-- The pattern of `(-1)^neg * m * 2^e` when it is exactly representable (R59, R97, R98). A zero keeps its sign. -/
def f64OfDyadic (neg : Bool) (m : Nat) (e : Int) : Option Word :=
  if m = 0 then some (f64Pack neg 0 0)
  else
    let n := bitlen m
    let top : Int := n - 1 + e
    if 1023 < top then none
    else if -1022 ≤ top then
      if n ≤ 53 then some (f64Pack neg (top + 1023).toNat (m * 2 ^ (53 - n) - 2 ^ 52))
      else if m % 2 ^ (n - 53) = 0 then some (f64Pack neg (top + 1023).toNat (m / 2 ^ (n - 53) - 2 ^ 52))
      else none
    else
      let k := e + 1074
      if 0 ≤ k then some (f64Pack neg 0 (m * 2 ^ k.toNat))
      else if m % 2 ^ (-k).toNat = 0 then some (f64Pack neg 0 (m / 2 ^ (-k).toNat))
      else none

/-- `f64(x)` for a decimal real x (R59): its binary64 pattern, when x is exactly representable. -/
def f64OfDecimal (x : Decimal) : Option Word :=
  if 0 ≤ x.exp then f64OfDyadic x.neg (x.digits * 10 ^ x.exp.toNat) 0
  else
    let k := (-x.exp).toNat
    if x.digits % 5 ^ k = 0 then f64OfDyadic x.neg (x.digits / 5 ^ k) x.exp else none

/-- The real number a decimal operand denotes (R59). -/
def Decimal.toRat (x : Decimal) : ℚ := (if x.neg then -1 else 1) * (x.digits : ℚ) * (10 : ℚ) ^ x.exp

/-- What a rounding must satisfy at an integer v (47_converters.md R99 (a), R103, R106; 92_eei_decisions.md D11): it gives
a finite pattern, exact on zero and on every integer of at most 53 significant bits, within the source's relative error
2^-52 otherwise, and flagged exact exactly when it equals v. -/
def Rounding.AdmissibleAt (r : Rounding) (v : Nat) : Prop :=
  ∃ q : ℚ, (f64Value (r v).1).toRat = some q ∧
    (v = 0 → q = 0) ∧ (0 < v → |q - v| * 2 ^ 52 < v) ∧
    ((∃ m k : Nat, m < 2 ^ 53 ∧ v = m * 2 ^ k) → q = v) ∧ ((r v).2 = true ↔ q = v)

/-- A rounding is a value of `U2F_ROUND` when it is admissible at every integer below 2^128 (92_eei_decisions.md D11). -/
def Rounding.Admissible (r : Rounding) : Prop := ∀ v : Nat, v < 2 ^ 128 → r.AdmissibleAt v

end Sys2Proof
end

