-- ==== Sys2Proof/Machine/Operands.lean ====
section
/-! DEFINITION. How each operation reads its operands (30_encoding.md R48 to R53), as data and as the reading
functions the meanings use. -/

namespace Sys2Proof

/-- Which request fields an operation reads (R48, column "reads"). -/
inductive Reads where
  /-- A and B -/
  | pairPair
  /-- A and B.lo; B.hi is ignored -/
  | pairWord
  /-- A; B is ignored -/
  | pairOnly
  /-- A.lo; A.hi and B are ignored -/
  | wordOnly
deriving DecidableEq, Repr

/-- R48, row by row. -/
def Mnemonic.reads : Mnemonic → Reads
  | .add | .sub | .mul | .divu | .cmps | .cmpu => .pairPair
  | .add64 | .sub64 | .mul64 | .cmpu64 | .divu64 | .lsh | .rsh | .rotl => .pairWord
  | .inc | .dec | .neg | .cvtu2f | .cvti2f => .pairOnly
  | .cvtf2u => .wordOnly

/-- The second operand as the assembler encodes it (R58): whole, `{0, value}` where only B.lo is read, 0 where B is
not read. -/
def Mnemonic.encodeB (m : Mnemonic) (b : WordPair) : WordPair :=
  match m.reads with
  | .pairPair => b
  | .pairWord => ⟨0, b.lo⟩
  | .pairOnly | .wordOnly => zeroPair

/-- Two operand pairs agree on the bits that are read; the ignored bits (R49) may differ. -/
def Reads.agree (rd : Reads) (a b a' b' : WordPair) : Bool :=
  match rd with
  | .pairPair => a = a' && b = b'
  | .pairWord => a = a' && b.lo = b'.lo
  | .pairOnly => a = a'
  | .wordOnly => a.lo = a'.lo

namespace Machine

/-- The 64-bit operand of ADD64, SUB64, MUL64 and CMPU64 (R50): `{hi: 0, lo: B.lo}`. -/
def wordOperand (b : WordPair) : WordPair := zext128 b.lo

/-- The divisor word of DIVU64 (R48, R50). -/
def divisorWord (b : WordPair) : Nat := b.lo.toNat

/-- The shift amount of LSH and RSH (R51): `n = B.lo`, unsigned. -/
def shiftAmount (b : WordPair) : Nat := b.lo.toNat

/-- The rotation amount of ROTL (R52): `k = s64(B.lo)`. -/
def rotateAmount (b : WordPair) : Int := s64 b.lo

/-- The float64 operand of CVTF2U (R53): the pattern `A.lo`. -/
def floatOperand (a : WordPair) : Word := a.lo

/-- A float64 result (R53): `Y = {hi: 0, lo: bits}`. -/
def floatResult (bits : Word) : WordPair := ⟨0, bits⟩

end Machine

end Sys2Proof
end

