-- ==== Sys2Proof/WellFormed.lean ====
section
/-! DEFINITION. Which terms of the syntax are well formed. Every request and so every instruction is (30_encoding.md
R49, R57: A and B never make a request undecodable, ignored bits are never checked); the checks concern what the
assembler writes (R58, R59) and the statements of a host program (R61). -/

namespace Sys2Proof

/-- The operation an instruction is. -/
def Instr.mnemonic : Instr → Mnemonic
  | .add _ _ => .add | .add64 _ _ => .add64 | .inc _ _ => .inc
  | .sub _ _ => .sub | .sub64 _ _ => .sub64 | .dec _ _ => .dec
  | .mul _ _ => .mul | .mul64 _ _ => .mul64
  | .divu64 _ _ => .divu64 | .divu _ _ => .divu
  | .neg _ _ => .neg
  | .lsh _ _ => .lsh | .rsh _ _ => .rsh | .rotl _ _ => .rotl
  | .cmps _ _ => .cmps | .cmpu _ _ => .cmpu | .cmpu64 _ _ => .cmpu64
  | .cvtf2u _ _ => .cvtf2u | .cvtu2f _ _ => .cvtu2f | .cvti2f _ _ => .cvti2f

/-- The first operand an instruction carries. -/
def Instr.opA : Instr → WordPair
  | .add a _ | .add64 a _ | .inc a _ | .sub a _ | .sub64 a _ | .dec a _ | .mul a _ | .mul64 a _ | .divu64 a _
  | .divu a _ | .neg a _ | .lsh a _ | .rsh a _ | .rotl a _ | .cmps a _ | .cmpu a _ | .cmpu64 a _ | .cvtf2u a _
  | .cvtu2f a _ | .cvti2f a _ => a

/-- The second operand an instruction carries. -/
def Instr.opB : Instr → WordPair
  | .add _ b | .add64 _ b | .inc _ b | .sub _ b | .sub64 _ b | .dec _ b | .mul _ b | .mul64 _ b | .divu64 _ b
  | .divu _ b | .neg _ b | .lsh _ b | .rsh _ b | .rotl _ b | .cmps _ b | .cmpu _ b | .cmpu64 _ b | .cvtf2u _ b
  | .cvtu2f _ b | .cvti2f _ b => b

/-- Whether an instruction is one the assembler writes by mnemonic (R58): its ignored half of B, or B, is 0. A block
runs every other instruction just as well (R49). -/
def Instr.assembled (i : Instr) : Bool := i.mnemonic.encodeB i.opB = i.opB

/-- R59: a hex literal has at most 16 digits, and `f64(x)` needs an exactly representable x. -/
def Literal.wf : Literal → Bool
  | .hex v => v < 2 ^ 64
  | .f64 x => (f64OfDecimal x).isSome
  | .pair _ _ | .dec _ | .maxu | .maxs | .mins | .zero => true

/-- The form `f64(x)`, which R59 gives for CVTF2U. -/
def Literal.isF64 : Literal → Bool
  | .f64 _ => true
  | .pair _ _ | .dec _ | .hex _ | .maxu | .maxs | .mins | .zero => false

/-- R59: an operand's literal is well formed, and is an `f64(x)` only where one is allowed: the operand of CVTF2U or of
a raw code (assumption 13). -/
def Operand.wf (f64Allowed : Bool) : Operand → Bool
  | .lit l => l.wf && (f64Allowed || !l.isF64)
  | .record _ _ | .recordYLo _ => true

/-- R58: a single-operand operation is written with one operand, every other with two. -/
def Call.wf : Call → Bool
  | .op m a b =>
    a.wf (m = .cvtf2u) &&
      (match m.reads, b with
       | .pairPair, some b | .pairWord, some b => b.wf false
       | .pairOnly, none | .wordOnly, none => true
       | .pairPair, none | .pairWord, none | .pairOnly, some _ | .wordOnly, some _ => false)
  | .raw _ a b => a.wf true && b.wf true
  | .pseudo _ a b => a.wf false && b.wf false

/-- R61: a target is the number of a statement (1 to the program's length), and a literal in a test is well formed. The
name of a record is not checked: R61 names records r1, r2, ..., and that r0 passes as one more name, here and in
`Operand.wf`, is the model's DESIGN CHOICE (assumption 19). -/
def Stmt.wf (length : Nat) : Stmt → Bool
  | .request _ c => c.wf
  | .ifEq _ _ v l | .ifNe _ _ v l => v.wf && 1 ≤ l && l ≤ length
  | .goto l => 1 ≤ l && l ≤ length
  | .halt | .nop => true

/-- A host program is well formed when each of its statements is. -/
def wfProgram (p : List Stmt) : Bool := p.all (Stmt.wf p.length)

end Sys2Proof
end

