-- ==== Sys2Proof/Decode.lean ====
section
/-! DEFINITION. The request word, the operation map, the decoder and the encoder (30_encoding.md R45 to R47, R55 to
R57). A request reaches the block as its fields (R18, R36); the 261-bit word is the listing form of R45. -/

namespace Sys2Proof

/-- R46: the operation code of a mnemonic. -/
def Mnemonic.code : Mnemonic → BitVec 5
  | .add => 0x00 | .add64 => 0x01 | .inc => 0x02
  | .sub => 0x04 | .sub64 => 0x05 | .dec => 0x06
  | .mul => 0x08 | .mul64 => 0x09
  | .divu64 => 0x0C | .divu => 0x0D
  | .neg => 0x10
  | .lsh => 0x14 | .rsh => 0x15 | .rotl => 0x16
  | .cmps => 0x18 | .cmpu => 0x19 | .cmpu64 => 0x1A
  | .cvtf2u => 0x1C | .cvtu2f => 0x1D | .cvti2f => 0x1E

/-- R46, R57: what each of the 32 codes names; none for the reserved ones. This is the flat table. -/
def mnemonicOfCode (op : BitVec 5) : Option Mnemonic :=
  match op.toNat with
  | 0x00 => some .add
  | 0x01 => some .add64
  | 0x02 => some .inc
  | 0x04 => some .sub
  | 0x05 => some .sub64
  | 0x06 => some .dec
  | 0x08 => some .mul
  | 0x09 => some .mul64
  | 0x0C => some .divu64
  | 0x0D => some .divu
  | 0x10 => some .neg
  | 0x14 => some .lsh
  | 0x15 => some .rsh
  | 0x16 => some .rotl
  | 0x18 => some .cmps
  | 0x19 => some .cmpu
  | 0x1A => some .cmpu64
  | 0x1C => some .cvtf2u
  | 0x1D => some .cvtu2f
  | 0x1E => some .cvti2f
  | _ => none

/-- R47: the operations of one unit group, in the order of `OP[1:0]`. -/
def groupOperations (group : Nat) : List Mnemonic :=
  match group with
  | 0 => [.add, .add64, .inc]
  | 1 => [.sub, .sub64, .dec]
  | 2 => [.mul, .mul64]
  | 3 => [.divu64, .divu]
  | 4 => [.neg]
  | 5 => [.lsh, .rsh, .rotl]
  | 6 => [.cmps, .cmpu, .cmpu64]
  | 7 => [.cvtf2u, .cvtu2f, .cvti2f]
  | _ => []

/-- R47: the same map by the split `OP[4:2]` (group) and `OP[1:0]` (operation within it). -/
def mnemonicByGroup (op : BitVec 5) : Option Mnemonic := (groupOperations (op.toNat / 4))[op.toNat % 4]?

/-- R55: the twelve reserved codes. -/
def reservedCodes : List (BitVec 5) := [0x03, 0x07, 0x0A, 0x0B, 0x0E, 0x0F, 0x11, 0x12, 0x13, 0x17, 0x1B, 0x1F]

/-- The instruction of a mnemonic on given operands. -/
def Mnemonic.instr (m : Mnemonic) (a b : WordPair) : Instr :=
  match m with
  | .add => .add a b | .add64 => .add64 a b | .inc => .inc a b
  | .sub => .sub a b | .sub64 => .sub64 a b | .dec => .dec a b
  | .mul => .mul a b | .mul64 => .mul64 a b
  | .divu64 => .divu64 a b | .divu => .divu a b
  | .neg => .neg a b
  | .lsh => .lsh a b | .rsh => .rsh a b | .rotl => .rotl a b
  | .cmps => .cmps a b | .cmpu => .cmpu a b | .cmpu64 => .cmpu64 a b
  | .cvtf2u => .cvtf2u a b | .cvtu2f => .cvtu2f a b | .cvti2f => .cvti2f a b

/-- R57: decoding is total. OP alone selects (R45); a reserved code is named. -/
def decode (r : Request) : Except DecodeError Instr :=
  match mnemonicOfCode r.op with
  | some m => .ok (m.instr r.a r.b)
  | none => .error (.reservedCode r.op)

/-- R45: the request as one 261-bit word. -/
def Request.toWord (r : Request) : BitVec 261 := r.op ++ r.a.hi ++ r.a.lo ++ r.b.hi ++ r.b.lo

/-- R45: the fields of a request word, read as a number. -/
def Request.ofNat (w : Nat) : Request where
  op := BitVec.ofNat 5 (w >>> 256)
  a := ⟨BitVec.ofNat 64 (w >>> 192), BitVec.ofNat 64 (w >>> 128)⟩
  b := ⟨BitVec.ofNat 64 (w >>> 64), BitVec.ofNat 64 w⟩

/-- R45: the fields of a 261-bit request word. -/
def Request.ofWord (w : BitVec 261) : Request := Request.ofNat w.toNat

/-- The instruction a 261-bit request word holds. -/
def decodeWord (w : BitVec 261) : Except DecodeError Instr := decode (Request.ofWord w)

/-- The request that is a given instruction (R45, R46). -/
def encode (i : Instr) : Request := ⟨i.mnemonic.code, i.opA, i.opB⟩

/-- The 261-bit word of a given instruction (R45). -/
def encodeWord (i : Instr) : BitVec 261 := (encode i).toWord

/-- R45: the mask every row of opcode_table.json has, `0x1F << 256`. -/
def opcodeMask : BitVec 261 := BitVec.ofNat 261 (0x1F * 2 ^ 256)

/-- R45: the match value of an operation's row, `OP << 256`. -/
def Mnemonic.opcodeMatch (m : Mnemonic) : BitVec 261 := BitVec.ofNat 261 (m.code.toNat * 2 ^ 256)

/-- R45: a request word is a row's operation when `(word AND mask) = match`. -/
def Mnemonic.matchesWord (m : Mnemonic) (w : BitVec 261) : Bool := w &&& opcodeMask = m.opcodeMatch

/-- The request of a table word `w` of `nbits` bits: bits from `nbits` up are 0, and bits above 260 are no part of a
request (R45; assumption 5). -/
def requestOfTableWord (nbits w : Nat) : Request :=
  Request.ofNat (if 261 ≤ nbits then w else w % 2 ^ nbits)

/-- The instruction the decoder reads from a table word. -/
def decodeTableWord (nbits w : Nat) : Option Instr := (decode (requestOfTableWord nbits w)).toOption

end Sys2Proof
end

