-- ==== Sys2Proof/Machine/State.lean ====
section
/-! DEFINITION. The state (10_state.md R15 to R33): the block's interface, which is all it has, and the host that uses
it (30_encoding.md R61). The block keeps nothing between requests (R15). There is no memory (20_memory.md R34). -/

namespace Sys2Proof.Machine

/-- Fault codes (60_exceptions.md R109). FC 3 is never produced, so it has no constructor. -/
inductive FaultCode where
  /-- raised by DIVU and DIVU64: the divisor is zero -/
  | divZero
  /-- raised by a reserved operation code -/
  | illegalOp
deriving DecidableEq, Repr

/-- The outputs of an OK response (R19, R20): every one holds a defined value. -/
structure Outputs where
  y : WordPair
  z : WordPair
  cf : Bool
  ir : Bool
  ex : Bool
deriving DecidableEq, Repr

/-- A response (R19). A fault response carries its code and no output (R21). -/
inductive Response where
  | ok (out : Outputs)
  | fault (code : FaultCode)
deriving DecidableEq, Repr

/-- Where a host program stands (30_encoding.md R61, 60_exceptions.md R113). The statement at which it ended is the
counter's. -/
inductive HostStatus where
  /-- no program is being run -/
  | idle
  | running
  /-- `halt` was reached: state DONE -/
  | done
  /-- a fault response was received: state FAULT(code), never a successful end -/
  | faulted (code : FaultCode)
deriving DecidableEq, Repr

/-- The host's side of the machine while it runs a program (R61). The block never sees it. -/
structure HostState where
  /-- the numbered statements, the first being statement 1 -/
  program : List Stmt
  /-- the statement counter -/
  counter : Nat
  /-- the named records r1, r2, ...: (name, last response), names strictly rising; any number is a name (assumption 19) -/
  records : List (Nat × Outputs)
  /-- the record that waits for the response of an issued request -/
  awaiting : Option Nat
  status : HostStatus
deriving DecidableEq, Repr

/-- The state of the machine. -/
structure State where
  /-- the outstanding request, if any (R5, R18) -/
  request : Option Request
  /-- the response to the last request issued; none before the first answer and after a reset (R32) -/
  response : Option Response
  /-- the host's record of the run's fault responses, oldest first (60_exceptions.md R113; assumption 8) -/
  faults : List FaultCode
  host : HostState
deriving DecidableEq, Repr

/-- The reasons for which a step stops with a fault. -/
inductive Fault where
  /-- The host reads a record that holds no response, or the response slot while it holds none (10_state.md R32: "a
  host read before the first response faults in the model"). Raised by the host's reads only, never by an
  instruction. Safe: nothing is read. -/
  | noResponseToRead
deriving DecidableEq, Repr

/-- The reasons for which there is no step. None of them is raised by an instruction. -/
inductive Refusal where
  /-- An instruction without a meaning; no arm of exec uses it. Safe. -/
  | notModelled (mnemonic : String)
  /-- No request is outstanding and no host program is running: neither agent has a step (R5: the block "never acts
  without a request"). Raised by step. Safe: the machine stands still. -/
  | noRequest
  /-- The host issues while a request is outstanding (R5, R33: it must wait). Raised by `hostIssue`. Safe. -/
  | requestOutstanding
  /-- The host reads Y, Z or a flag of a FAULT response (R21; 93_implementation_defined.md I6). Raised by `hostRead`.
  Safe: no value is given. -/
  | noOutputs
  /-- The statement counter names no statement of the program (R61 gives no meaning; assumption 12). Raised by the
  host's step. Safe. -/
  | noStatement
  /-- The statement is not of a written form of R58 to R61 (assumption 13). Raised by the host's step. Safe. -/
  | illFormedStatement
deriving DecidableEq, Repr

/-- The host before any program is placed (assumption 4). -/
def HostState.initial : HostState where
  program := []
  counter := 1
  records := []
  awaiting := none
  status := .idle

/-- The machine right after reset (R32, 70_reset_and_hazards.md R122, R123): no request, no response. The host's own
fields are the model's choice (assumption 4). -/
def State.reset : State where
  request := none
  response := none
  faults := []
  host := .initial

end Sys2Proof.Machine
end

