-- ==== Sys2Proof/Machine/Flags.lean ====
section
/-! DEFINITION. Which outputs an operation sets (10_state.md R20, R24 to R28), and the RS and FC fields of a response
(R19). Z is 0 but for the dividers, CF 0 outside the add and subtract families, IR and EX 0 outside the conversions. -/

namespace Sys2Proof.Machine

/-- Only Y is set (R28: MUL, MUL64, NEG, the shifter, the comparators). -/
def Outputs.value (y : WordPair) : Outputs := ⟨y, zeroPair, false, false, false⟩

/-- Y and CF (R24, R28: the add and subtract families). -/
def Outputs.carry (y : WordPair) (cf : Bool) : Outputs := ⟨y, zeroPair, cf, false, false⟩

/-- Y and Z (R28: DIVU64, DIVU). -/
def Outputs.division (q r : WordPair) : Outputs := ⟨q, r, false, false, false⟩

/-- Y, IR and EX (R25, R26, R28: the conversions). -/
def Outputs.conversion (y : WordPair) (ir ex : Bool) : Outputs := ⟨y, zeroPair, false, ir, ex⟩

/-- R109: the numeric fault codes. -/
def FaultCode.number : FaultCode → BitVec 2
  | .divZero => 1
  | .illegalOp => 2

/-- R19: RS, `OK` (0) or `FAULT` (1). -/
def Response.rs : Response → BitVec 1
  | .ok _ => 0
  | .fault _ => 1

/-- R19, R20: FC, 0 in an OK response. -/
def Response.fc : Response → BitVec 2
  | .ok _ => 0
  | .fault c => c.number

/-- R21: the outputs of a response; a FAULT response has none. -/
def Response.outputs : Response → Option Outputs
  | .ok o => some o
  | .fault _ => none

/-- A flag as the word pair `{0, flag}` (R59). -/
def flagPair (b : Bool) : WordPair := ⟨0, if b then 1 else 0⟩

/-- The value of a named output (R59). -/
def Outputs.get (o : Outputs) : Output → WordPair
  | .y => o.y
  | .z => o.z
  | .cf => flagPair o.cf
  | .ir => flagPair o.ir
  | .ex => flagPair o.ex

end Sys2Proof.Machine
end

