-- ==== Sys2Proof/Machine/Ops.lean ====
section
/-! DEFINITION. The named operations on the state: answering a request, raising a fault (the block's one way to take an
exception), and the host's acts at the interface (10_state.md R33, 70_reset_and_hazards.md R122). -/

namespace Sys2Proof.Machine

/-- The block answers the outstanding request (R5, R19): the request is no longer outstanding, the response is there,
and a fault response enters the host's record of the run (60_exceptions.md R113). The host is not touched (R22). -/
def State.answer (s : State) (r : Response) : State :=
  { s with
    request := none
    response := some r
    faults := match r with
      | .ok _ => s.faults
      | .fault c => s.faults ++ [c] }

/-- The step of an operation that completes: an OK response (R20). -/
def respond (o : Outputs) (s : State) : Host.Outcome State Fault Refusal := .next (s.answer (.ok o))

/-- TAKING AN EXCEPTION, `raise Fault(code)` (60_exceptions.md R108, R112): the response is FAULT with the code and no
output; nothing is saved or redirected, and the block accepts the next request as after an OK response (R113). There
is no return from it (R113), so no operation for one. -/
def raiseFault (c : FaultCode) (s : State) : Host.Outcome State Fault Refusal := .next (s.answer (.fault c))

/-- The host issues a request (R33): it is outstanding, and no response to it exists yet (assumption 3). This is the bare
act: DESIGN CHOICE (assumption 21), a request that was outstanding is replaced and gets no response. -/
def State.issue (s : State) (r : Request) : State := { s with request := some r, response := none }

/-- The host issues a request as R5 and R33 allow it: only when none is outstanding. DESIGN CHOICE (assumption 21): this
act from outside counts a response as received once it is given, also where a running program still waits for it; that
response is then lost to the program, which keeps the next one as the awaited record. -/
def hostIssue (r : Request) (s : State) : Host.Outcome State Fault Refusal :=
  match s.request with
  | none => .next (s.issue r)
  | some _ => .refused .requestOutstanding

/-- The host reads the outputs of the response (R33): a fault before there is one (R32), refused for a FAULT response
(R21, I6). -/
def hostRead (s : State) : Host.Outcome Outputs Fault Refusal :=
  match s.response with
  | none => .fault .noResponseToRead
  | some (.fault _) => .refused .noOutputs
  | some (.ok o) => .next o

/-- Reset (R122, R123, R32): an outstanding request gets no response, and no response exists, one the host has not yet
received included (R123; assumption 20 says what the host then does). The host is not reset; it must issue its
request again. -/
def State.applyReset (s : State) : State := { s with request := none, response := none }

/-- Keep a record, replacing any earlier one of that name (R61), names strictly rising. -/
def putRecord (n : Nat) (o : Outputs) : List (Nat × Outputs) → List (Nat × Outputs)
  | [] => [(n, o)]
  | (m, p) :: rest =>
    if n < m then (n, o) :: (m, p) :: rest
    else if n = m then (n, o) :: rest
    else (m, p) :: putRecord n o rest

/-- The record of a name, if one is kept. -/
def getRecord (n : Nat) : List (Nat × Outputs) → Option Outputs
  | [] => none
  | (m, p) :: rest => if n = m then some p else getRecord n rest

/-- The canonical form of the records: names strictly rising. -/
def recordsWf : List (Nat × Outputs) → Bool
  | [] => true
  | [_] => true
  | (m, _) :: (n, p) :: rest => m < n && recordsWf ((n, p) :: rest)

end Sys2Proof.Machine
end

