-- ==== Sys2Proof/Machine/Adder.lean ====
section
/-! DEFINITION. u128_adder_carry (40_adder.md): ADD, ADD64, INC. -/

namespace Sys2Proof.Machine

/-- R63: the two-word carry chain; the sum and the carry out of bit 127. -/
def add128 (a b : WordPair) : WordPair × Bool :=
  let loSum := a.lo.toNat + b.lo.toNat
  let c64 := if 2 ^ 64 ≤ loSum then 1 else 0
  let hiSum := a.hi.toNat + b.hi.toNat + c64
  (⟨w64 hiSum, w64 loSum⟩, 2 ^ 64 ≤ hiSum)

/-- R64. -/
def execAdd (a b : WordPair) (s : State) : Host.Outcome State Fault Refusal :=
  let (y, c) := add128 a b
  respond (.carry y c) s

/-- R65. -/
def execAdd64 (a b : WordPair) (s : State) : Host.Outcome State Fault Refusal :=
  let (y, c) := add128 a (wordOperand b)
  respond (.carry y c) s

/-- R66. -/
def execInc (a _b : WordPair) (s : State) : Host.Outcome State Fault Refusal :=
  let (y, c) := add128 a ⟨0, 1⟩
  respond (.carry y c) s

end Sys2Proof.Machine
end

