-- ==== Sys2Proof/Machine/Comparator.lean ====
section
/-! DEFINITION. comparator_signed and comparator_unsigned (46_comparator.md): CMPS, CMPU, CMPU64. -/

namespace Sys2Proof.Machine

/-- R92: the three-way result as a word pair, `w128(-1)`, `{0, 0}` or `{0, 1}`. -/
def comparePair : Ordering → WordPair
  | .lt => w128 (-1)
  | .eq => zeroPair
  | .gt => ⟨0, 1⟩

/-- R94: `hi` first, then `lo`, unsigned. -/
def compareUnsigned (a b : WordPair) : Ordering :=
  if a.hi.toNat < b.hi.toNat then .lt
  else if b.hi.toNat < a.hi.toNat then .gt
  else if a.lo.toNat < b.lo.toNat then .lt
  else if b.lo.toNat < a.lo.toNat then .gt
  else .eq

/-- R93: differing sign bits decide; otherwise the unsigned order. -/
def compareSigned (a b : WordPair) : Ordering :=
  if a.sign ≠ b.sign then (if a.sign = false then .gt else .lt)
  else if a.u < b.u then .lt
  else if b.u < a.u then .gt
  else .eq

/-- R95: a nonzero A.hi decides; otherwise A.lo against the word. -/
def compareWord (a : WordPair) (w : Word) : Ordering :=
  if a.hi ≠ 0 then .gt
  else if a.lo.toNat < w.toNat then .lt
  else if w.toNat < a.lo.toNat then .gt
  else .eq

/-- R93. -/
def execCmps (a b : WordPair) (s : State) : Host.Outcome State Fault Refusal :=
  respond (.value (comparePair (compareSigned a b))) s

/-- R94. -/
def execCmpu (a b : WordPair) (s : State) : Host.Outcome State Fault Refusal :=
  respond (.value (comparePair (compareUnsigned a b))) s

/-- R95. -/
def execCmpu64 (a b : WordPair) (s : State) : Host.Outcome State Fault Refusal :=
  respond (.value (comparePair (compareWord a b.lo))) s

/-- R96: the Boolean comparisons, read from a three-way result Y. -/
def equalOf (y : WordPair) : Bool := y = zeroPair
/-- R96. -/
def lessThanOf (y : WordPair) : Bool := y = w128 (-1)
/-- R96. -/
def greaterThanOf (y : WordPair) : Bool := y = ⟨0, 1⟩
/-- R96. -/
def lessOrEqualOf (y : WordPair) : Bool := !greaterThanOf y
/-- R96. -/
def greaterOrEqualOf (y : WordPair) : Bool := !lessThanOf y

end Sys2Proof.Machine
end

