-- ==== Sys2Proof/Config.lean ====
section
/-! DEFINITION. The implementation parameters of 00_scope.md R7 (92_eei_decisions.md, "Parameters a model takes as
arguments"). -/

namespace Sys2Proof

/-- `U2F_ROUND`: the rounding of CVTU2F and CVTI2F, at its default `RNE` (R7, R102, D11). The conversions take the
rounding as an argument (`cvtu2fOutputs`, `cvti2fOutputs`); exec passes this one. DESIGN CHOICE of the default, unsafe:
assumption 6. -/
def Config.u2fRound : Rounding := rne

/-- `DIV_THRESHOLD`: any natural number (R7, R78, D23). No body: nothing can be proved of its value, and no result
depends on it. Assumption 7. -/
opaque Config.divThreshold : Nat

end Sys2Proof
end

