-- ==== Sys2Proof/Machine/Converters.lean ====
section
/-! DEFINITION. The float64 converters (47_converters.md): CVTF2U, CVTU2F, CVTI2F. The format and the functions `f2u`
and `rne` are in Machine/Float.lean. -/

namespace Sys2Proof.Machine

/-- R104, with the rounding as an argument (U2F_ROUND): IR is always 1, EX the exactness (R103). -/
def cvtu2fOutputs (round : Rounding) (a : WordPair) : Outputs :=
  let (bits, ex) := round a.u
  .conversion (floatResult bits) true ex

/-- R105, with the rounding as an argument: the magnitude is rounded, then the sign bit set. -/
def cvti2fOutputs (round : Rounding) (a : WordPair) : Outputs :=
  if a.sign then
    let (bits, ex) := round (2 ^ 128 - a.u)
    .conversion (floatResult (bits + 0x8000000000000000)) true ex
  else
    let (bits, ex) := round a.u
    .conversion (floatResult bits) true ex

/-- R101. -/
def execCvtf2u (a _b : WordPair) (s : State) : Host.Outcome State Fault Refusal :=
  let c := f2u (floatOperand a)
  respond (.conversion c.y c.ir c.ex) s

/-- R104. -/
def execCvtu2f (a _b : WordPair) (s : State) : Host.Outcome State Fault Refusal :=
  respond (cvtu2fOutputs Config.u2fRound a) s

/-- R105. -/
def execCvti2f (a _b : WordPair) (s : State) : Host.Outcome State Fault Refusal :=
  respond (cvti2fOutputs Config.u2fRound a) s

end Sys2Proof.Machine
end

