-- ==== Sys2Proof/Machine/Divider.lean ====
section
/-! DEFINITION. u128_divider_128by64 and u128_divider_128by128 (43_divider.md): DIVU64, DIVU. -/

namespace Sys2Proof.Machine

/-- R77: quotient and remainder. R78: which internal path runs, and so the threshold that selects it, is not
observable; the result is computed directly for every threshold. -/
def quotRem (_threshold n d : Nat) : Nat × Nat := (n / d, n % d)

/-- R79: B.lo alone is the divisor, and only B.lo = 0 faults (R81); the remainder is below 2^64 and goes to Z.lo. -/
def execDivu64 (a b : WordPair) (s : State) : Host.Outcome State Fault Refusal :=
  if divisorWord b = 0 then raiseFault .divZero s
  else
    let qr := quotRem Config.divThreshold a.u (divisorWord b)
    respond (.division (w128 qr.1) ⟨0, w64 qr.2⟩) s

/-- R80. -/
def execDivu (a b : WordPair) (s : State) : Host.Outcome State Fault Refusal :=
  if b.u = 0 then raiseFault .divZero s
  else
    let qr := quotRem Config.divThreshold a.u b.u
    respond (.division (w128 qr.1) (w128 qr.2)) s

end Sys2Proof.Machine
end

