-- ==== Sys2Proof/Machine/Multiplier.lean ====
section
/-! DEFINITION. u128_multiplier (42_multiplier.md): MUL, MUL64. -/

namespace Sys2Proof.Machine

/-- R73: the low 128 bits of the product, by partial products of words. -/
def mul128 (a b : WordPair) : WordPair :=
  let p0 := a.lo.toNat * b.lo.toNat
  ⟨w64 (p0 / 2 ^ 64 + a.hi.toNat * b.lo.toNat + a.lo.toNat * b.hi.toNat : Nat), w64 (p0 % 2 ^ 64 : Nat)⟩

/-- R74. -/
def execMul (a b : WordPair) (s : State) : Host.Outcome State Fault Refusal :=
  respond (.value (mul128 a b)) s

/-- R75. -/
def execMul64 (a b : WordPair) (s : State) : Host.Outcome State Fault Refusal :=
  respond (.value (mul128 a (wordOperand b))) s

end Sys2Proof.Machine
end

