-- ==== Sys2Proof/Machine/Negation.lean ====
section
/-! DEFINITION. i128_negation_twoscomp (44_negation.md): NEG. -/

namespace Sys2Proof.Machine

/-- R85: `~x + 1`, MinInt128 special-cased before the generic path. -/
def neg128 (a : WordPair) : WordPair :=
  if a = minInt128 then minInt128 else w128 (a.complement.u + 1 : Nat)

/-- R85. -/
def execNeg (a _b : WordPair) (s : State) : Host.Outcome State Fault Refusal :=
  respond (.value (neg128 a)) s

end Sys2Proof.Machine
end

