-- ==== Sys2Proof/Machine/Shifter.lean ====
section
/-! DEFINITION. barrel_shifter_rotate (45_shifter.md): LSH, RSH, ROTL. The results are the mathematical ones for every
amount (R87). -/

namespace Sys2Proof.Machine

/-- R88: logical left shift; 128 or more gives Zero (R87). -/
def shl128 (a : WordPair) (n : Nat) : WordPair := if 128 ≤ n then zeroPair else w128 (a.u * 2 ^ n : Nat)

/-- R89: logical right shift; 128 or more gives Zero (R87). -/
def shr128 (a : WordPair) (n : Nat) : WordPair := if 128 ≤ n then zeroPair else w128 (a.u / 2 ^ n : Nat)

/-- R90: rotation left by `k mod 128`, the remainder Euclidean; a negative k rotates right. -/
def rotl128 (a : WordPair) (k : Int) : WordPair :=
  let r := (k % 128).toNat
  if r = 0 then a else w128 (a.u * 2 ^ r + a.u / 2 ^ (128 - r) : Nat)

/-- R88. -/
def execLsh (a b : WordPair) (s : State) : Host.Outcome State Fault Refusal :=
  respond (.value (shl128 a (shiftAmount b))) s

/-- R89. -/
def execRsh (a b : WordPair) (s : State) : Host.Outcome State Fault Refusal :=
  respond (.value (shr128 a (shiftAmount b))) s

/-- R90. -/
def execRotl (a b : WordPair) (s : State) : Host.Outcome State Fault Refusal :=
  respond (.value (rotl128 a (rotateAmount b))) s

end Sys2Proof.Machine
end

