-- ==== Sys2Proof/Machine/Subtractor.lean ====
section
/-! DEFINITION. u128_subtractor_borrow (41_subtractor.md): SUB, SUB64, DEC. -/

namespace Sys2Proof.Machine

/-- R68: the two-word borrow chain; the difference and the borrow out of bit 127. -/
def sub128 (a b : WordPair) : WordPair × Bool :=
  let loDif : Int := a.lo.toNat - b.lo.toNat
  let b64 : Int := if loDif < 0 then 1 else 0
  let hiDif : Int := a.hi.toNat - b.hi.toNat - b64
  (⟨w64 hiDif, w64 loDif⟩, hiDif < 0)

/-- R69. -/
def execSub (a b : WordPair) (s : State) : Host.Outcome State Fault Refusal :=
  let (y, c) := sub128 a b
  respond (.carry y c) s

/-- R70. -/
def execSub64 (a b : WordPair) (s : State) : Host.Outcome State Fault Refusal :=
  let (y, c) := sub128 a (wordOperand b)
  respond (.carry y c) s

/-- R71. -/
def execDec (a _b : WordPair) (s : State) : Host.Outcome State Fault Refusal :=
  let (y, c) := sub128 a ⟨0, 1⟩
  respond (.carry y c) s

end Sys2Proof.Machine
end

