-- ==== Sys2Proof/Machine/Dispatch.lean ====
section
/-! DEFINITION. One arm per instruction: each calls its own meaning. -/

namespace Sys2Proof.Machine

def exec (i : Instr) (s : State) : Host.Outcome State Fault Refusal :=
  match i with
  | .add a b => Sys2Proof.Machine.execAdd a b s
  | .add64 a b => Sys2Proof.Machine.execAdd64 a b s
  | .inc a b => Sys2Proof.Machine.execInc a b s
  | .sub a b => Sys2Proof.Machine.execSub a b s
  | .sub64 a b => Sys2Proof.Machine.execSub64 a b s
  | .dec a b => Sys2Proof.Machine.execDec a b s
  | .mul a b => Sys2Proof.Machine.execMul a b s
  | .mul64 a b => Sys2Proof.Machine.execMul64 a b s
  | .divu64 a b => Sys2Proof.Machine.execDivu64 a b s
  | .divu a b => Sys2Proof.Machine.execDivu a b s
  | .neg a b => Sys2Proof.Machine.execNeg a b s
  | .lsh a b => Sys2Proof.Machine.execLsh a b s
  | .rsh a b => Sys2Proof.Machine.execRsh a b s
  | .rotl a b => Sys2Proof.Machine.execRotl a b s
  | .cmps a b => Sys2Proof.Machine.execCmps a b s
  | .cmpu a b => Sys2Proof.Machine.execCmpu a b s
  | .cmpu64 a b => Sys2Proof.Machine.execCmpu64 a b s
  | .cvtf2u a b => Sys2Proof.Machine.execCvtf2u a b s
  | .cvtu2f a b => Sys2Proof.Machine.execCvtu2f a b s
  | .cvti2f a b => Sys2Proof.Machine.execCvti2f a b s

end Sys2Proof.Machine
end

