-- ==== Sys2Proof/Machine/HostProgram.lean ====
section
/-! DEFINITION. The host and its program (30_encoding.md R58 to R61, 60_exceptions.md R113): the value of an operand,
the request a written call stands for, and the host's step. The block never sees the counter or the records (R61). -/

namespace Sys2Proof.Machine

/-- Go on with a result, or stop as it stopped. -/
def andThen {α β : Type} (o : Host.Outcome α Fault Refusal) (f : α → Host.Outcome β Fault Refusal) :
    Host.Outcome β Fault Refusal :=
  match o with
  | .next a => f a
  | .fault r => .fault r
  | .refused r => .refused r

/-- R59: the value of a literal form; none where the form does not admit it. -/
def literalValue : Literal → Option WordPair
  | .pair hi lo => some ⟨hi, lo⟩
  | .dec n => some (w128 n)
  | .hex v => if v < 2 ^ 64 then some ⟨0, BitVec.ofNat 64 v⟩ else none
  | .maxu => some maxUint128
  | .maxs => some maxInt128
  | .mins => some minInt128
  | .zero => some zeroPair
  | .f64 x => (f64OfDecimal x).map fun bits => ⟨0, bits⟩

/-- R59: the value of an operand. A record that holds no response is a read of nothing (10_state.md R32; assumption
10). `rN.Y.lo` stands as `{0, Y.lo}` (assumption 11). -/
def operandValue (records : List (Nat × Outputs)) : Operand → Host.Outcome WordPair Fault Refusal
  | .lit l =>
    match literalValue l with
    | some v => .next v
    | none => .refused .illFormedStatement
  | .record n o =>
    match getRecord n records with
    | some p => .next (p.get o)
    | none => .fault .noResponseToRead
  | .recordYLo n =>
    match getRecord n records with
    | some p => .next ⟨0, p.y.lo⟩
    | none => .fault .noResponseToRead

/-- R60: the operation a pseudo-instruction expands to. -/
def pseudoBase : Pseudo → Mnemonic
  | .quo | .rem => .divu
  | .quo64 | .rem64 => .divu64
  | .rotr => .rotl
  | .adds => .add
  | .subs => .sub
  | .muls => .mul
  | .eq | .ne | .ltu | .leu | .gtu | .geu => .cmpu
  | .lts | .les | .gts | .ges => .cmps

/-- R60: the second operand of the expansion: `w64(-k)` for ROTR, the operand itself for the others. -/
def pseudoOperand (p : Pseudo) (b : WordPair) : WordPair :=
  if p = .rotr then ⟨0, w64 (-(b.lo.toNat : Int))⟩ else b

/-- What a pseudo-instruction takes from the response (R60): a value, or the truth of a host test. -/
inductive PseudoResult where
  | value (v : WordPair)
  | test (b : Bool)
deriving DecidableEq, Repr

/-- R60, column "result taken", with the tests of R96. -/
def pseudoResult (p : Pseudo) (o : Outputs) : PseudoResult :=
  match p with
  | .quo | .quo64 | .rotr | .adds | .subs | .muls => .value o.y
  | .rem | .rem64 => .value o.z
  | .eq => .test (equalOf o.y)
  | .ne => .test (!equalOf o.y)
  | .ltu | .lts => .test (lessThanOf o.y)
  | .leu | .les => .test (lessOrEqualOf o.y)
  | .gtu | .gts => .test (greaterThanOf o.y)
  | .geu | .ges => .test (greaterOrEqualOf o.y)

/-- The request of an operation written by mnemonic (R58). -/
def assembleOp (m : Mnemonic) (a b : WordPair) : Request := ⟨m.code, a, m.encodeB b⟩

/-- The request a written call stands for (R58, R60): operands that are not written are 0; a raw code takes its
operands whole. -/
def assembleCall (records : List (Nat × Outputs)) : Call → Host.Outcome Request Fault Refusal
  | .op m a none => andThen (operandValue records a) fun va => .next (assembleOp m va zeroPair)
  | .op m a (some b) =>
    andThen (operandValue records a) fun va =>
      andThen (operandValue records b) fun vb => .next (assembleOp m va vb)
  | .raw code a b =>
    andThen (operandValue records a) fun va =>
      andThen (operandValue records b) fun vb => .next ⟨code, va, vb⟩
  | .pseudo p a b =>
    andThen (operandValue records a) fun va =>
      andThen (operandValue records b) fun vb => .next (assembleOp (pseudoBase p) va (pseudoOperand p vb))

/-- The host goes to a statement (R61). -/
def State.goTo (s : State) (l : Nat) : State := { s with host := { s.host with counter := l } }

/-- R61: issue the request of a statement and wait for its response. -/
def State.hostCall (s : State) (dst : Nat) (r : Request) : State :=
  { s.issue r with host := { s.host with awaiting := some dst } }

/-- R61: keep the outputs as the awaited record and go to the next statement. -/
def State.keep (s : State) (dst : Nat) (o : Outputs) : State :=
  { s with host := { s.host with
    records := putRecord dst o s.host.records
    counter := s.host.counter + 1
    awaiting := none } }

/-- R61: the program ends in a state, at the statement of the counter. -/
def State.endProgram (s : State) (st : HostStatus) : State :=
  { s with host := { s.host with status := st, awaiting := none } }

/-- R61: the host receives the response it waits for; a fault ends the program, and no record is kept. DESIGN CHOICE
(assumption 18): an earlier record of that name stays as it was, which R61 leaves open. -/
def State.receive (s : State) (dst : Nat) : Response → State
  | .ok o => s.keep dst o
  | .fault c => s.endProgram (.faulted c)

/-- R61: the comparison of a record's output with a literal. -/
def testRecord (records : List (Nat × Outputs)) (n : Nat) (f : Output) (v : Literal) :
    Host.Outcome Bool Fault Refusal :=
  andThen (operandValue records (.record n f)) fun x =>
    andThen (operandValue records (.lit v)) fun y => .next (decide (x = y))

/-- R61: one statement of a program. -/
def runStatement (st : Stmt) (s : State) : Host.Outcome State Fault Refusal :=
  match st with
  | .request dst c => andThen (assembleCall s.host.records c) fun r => .next (s.hostCall dst r)
  | .ifEq n f v l =>
    andThen (testRecord s.host.records n f v) fun b => .next (s.goTo (if b then l else s.host.counter + 1))
  | .ifNe n f v l =>
    andThen (testRecord s.host.records n f v) fun b => .next (s.goTo (if b then s.host.counter + 1 else l))
  | .goto l => .next (s.goTo l)
  | .halt => .next (s.endProgram .done)
  | .nop => .next (s.goTo (s.host.counter + 1))

/-- The statement of a number, the first being 1 (R61). -/
def statementAt (p : List Stmt) (n : Nat) : Option Stmt := if n = 0 then none else p[n - 1]?

/-- R61: the host runs the statement of the counter. -/
def runCounter (s : State) : Host.Outcome State Fault Refusal :=
  match statementAt s.host.program s.host.counter with
  | none => .refused .noStatement
  | some st => if st.wf s.host.program.length then runStatement st s else .refused .illFormedStatement

/-- The host's step, when no request is outstanding (00_scope.md R5): it receives the response it waits for, or runs
the statement of the counter. Where it waits and there is no response, its request was lost to a reset and it issues
it again by running the statement once more (70_reset_and_hazards.md R122). DESIGN CHOICE (assumption 20): it does so
too where the block had answered and the reset came before the host received the response, which R122 leaves open; a
fault given before such a reset then enters the record of faults once more. -/
def hostStep (s : State) : Host.Outcome State Fault Refusal :=
  match s.host.status with
  | .running =>
    match s.host.awaiting, s.response with
    | some dst, some r => .next (s.receive dst r)
    | some _, none => runCounter s
    | none, _ => runCounter s
  | .idle => .refused .noRequest
  | .done => .refused .noRequest
  | .faulted _ => .refused .noRequest

/-- A preset record (R61): its Y is given, its other fields are 0. -/
def presetRecord (y : WordPair) : Outputs := .value y

/-- R61: the start of a program, from outside the machine: statement 1, with the records the start state presets. DESIGN
CHOICE (assumption 19): any name may be preset, 0 included; of two presets of one name the later stands; records of an
earlier program are dropped. -/
def State.loadProgram (s : State) (p : List Stmt) (presets : List (Nat × WordPair)) : State :=
  { s with host :=
    { program := p
      counter := 1
      records := presets.foldl (fun acc r => putRecord r.1 (presetRecord r.2) acc) []
      awaiting := none
      status := .running } }

end Sys2Proof.Machine
end

