-- ==== Sys2Proof/Machine/Step.lean ====
section
/-! DEFINITION. The step (00_scope.md R5, 70_reset_and_hazards.md R127). The machine fetches nothing (10_state.md
R17): the instruction is the outstanding request. -/

namespace Sys2Proof.Machine

/-- One step: where a request is outstanding the block answers it, a reserved code by `ILLEGAL_OP` (60_exceptions.md
R110); otherwise it is the host's turn, since the block never acts without a request. -/
def step (s : State) : Host.Outcome State Fault Refusal :=
  match s.request with
  | some r =>
    match decode r with
    | .ok i => exec i s
    | .error (.reservedCode _) => raiseFault .illegalOp s
  | none => hostStep s

/-- The host issues the request of a table word: the very next step answers it (assumption 4). DESIGN CHOICE (assumption
21): like `State.issue` it replaces a request that was outstanding, where `hostIssue` refuses. -/
def State.withFetchWord (s : State) (nbits w : Nat) : State := s.issue (requestOfTableWord nbits w)

end Sys2Proof.Machine
end

