-- ==== Sys2Proof/Machine/Assembler.lean ====
section
/-! DEFINITION. The written forms of 30_encoding.md as text: operands (R59), calls and raw codes (R58), pseudo-instructions
(R60), host statements (R61) and the listing of a request (R62). Text is a list of characters; the two braces stand by
their code points, since a model's strings hold none. -/

namespace Sys2Proof.Machine

/-- A hexadecimal digit, capital as the spec writes it. -/
def hexDigit (d : Nat) : Char := if d < 10 then Char.ofNat (48 + d) else Char.ofNat (55 + d)

/-- The digits of v in a base, least significant first, at most `fuel` of them; 0 has the one digit 0. -/
def digitsRev (base : Nat) : Nat → Nat → List Char
  | 0, _ => []
  | fuel + 1, v => hexDigit (v % base) :: (if v / base = 0 then [] else digitsRev base fuel (v / base))

/-- `0x...`, without leading zeros, as the listings of 95_test_vectors.md write a word. -/
def hexText (v : Nat) : List Char := "0x".toList ++ (digitsRev 16 (bitlen v + 1) v).reverse

/-- A decimal number. -/
def natText (v : Nat) : List Char := (digitsRev 10 (bitlen v + 1) v).reverse

/-- A decimal number with its sign (R59). -/
def intText (v : Int) : List Char := if v < 0 then '-' :: natText v.natAbs else natText v.natAbs

/-- A word pair between braces, hi first (R8, R59, R62). -/
def pairText (x : WordPair) : List Char :=
  [Char.ofNat 123] ++ hexText x.hi.toNat ++ ", ".toList ++ hexText x.lo.toNat ++ [Char.ofNat 125]

/-- A code with two hex digits, `0xNN` (R58, R62). -/
def codeText (op : BitVec 5) : List Char := "0x".toList ++ [hexDigit (op.toNat / 16), hexDigit (op.toNat % 16)]

/-- R62: the listing of a request, its fields in the order of the request word. -/
def listing (r : Request) : List Char :=
  "OP=".toList ++ codeText r.op ++ " A=".toList ++ pairText r.a ++ " B=".toList ++ pairText r.b

/-- R46: the mnemonics. -/
def mnemonicText : Mnemonic → String
  | .add => "ADD" | .add64 => "ADD64" | .inc => "INC"
  | .sub => "SUB" | .sub64 => "SUB64" | .dec => "DEC"
  | .mul => "MUL" | .mul64 => "MUL64"
  | .divu64 => "DIVU64" | .divu => "DIVU"
  | .neg => "NEG"
  | .lsh => "LSH" | .rsh => "RSH" | .rotl => "ROTL"
  | .cmps => "CMPS" | .cmpu => "CMPU" | .cmpu64 => "CMPU64"
  | .cvtf2u => "CVTF2U" | .cvtu2f => "CVTU2F" | .cvti2f => "CVTI2F"

/-- R60: the pseudo-mnemonics. -/
def pseudoText : Pseudo → String
  | .quo => "QUO" | .rem => "REM" | .quo64 => "QUO64" | .rem64 => "REM64"
  | .rotr => "ROTR"
  | .adds => "ADDS" | .subs => "SUBS" | .muls => "MULS"
  | .eq => "EQ" | .ne => "NE" | .ltu => "LTU" | .leu => "LEU" | .gtu => "GTU" | .geu => "GEU"
  | .lts => "LTS" | .les => "LES" | .gts => "GTS" | .ges => "GES"

/-- R59: the names of a response's outputs. -/
def outputText : Output → String
  | .y => "Y" | .z => "Z" | .cf => "CF" | .ir => "IR" | .ex => "EX"

/-- A decimal real: its digits, then zeros for a positive exponent, or a point with the digits after it. -/
def decimalText (x : Decimal) : List Char :=
  let sign := if x.neg then ['-'] else []
  if 0 ≤ x.exp then sign ++ natText (x.digits * 10 ^ x.exp.toNat) ++ ".0".toList
  else
    let k := (-x.exp).toNat
    let tail := natText (x.digits % 10 ^ k)
    sign ++ natText (x.digits / 10 ^ k) ++ ['.'] ++ List.replicate (k - tail.length) '0' ++ tail

/-- R59: the literal forms. -/
def literalText : Literal → List Char
  | .pair hi lo => pairText ⟨hi, lo⟩
  | .dec n => intText n
  | .hex v => hexText v
  | .maxu => "MAXU".toList
  | .maxs => "MAXS".toList
  | .mins => "MINS".toList
  | .zero => "ZERO".toList
  | .f64 x => "f64(".toList ++ decimalText x ++ ")".toList

/-- R61: the name of a record. -/
def recordText (n : Nat) : List Char := 'r' :: natText n

/-- R59: the operand forms. -/
def operandText : Operand → List Char
  | .lit l => literalText l
  | .record n o => recordText n ++ '.' :: (outputText o).toList
  | .recordYLo n => recordText n ++ ".Y.lo".toList

/-- R58, R60: a request as it is written. -/
def callText : Call → List Char
  | .op m a none => (mnemonicText m).toList ++ ' ' :: operandText a
  | .op m a (some b) => (mnemonicText m).toList ++ ' ' :: operandText a ++ ", ".toList ++ operandText b
  | .raw code a b => ".op ".toList ++ codeText code ++ ' ' :: operandText a ++ ", ".toList ++ operandText b
  | .pseudo p a b => (pseudoText p).toList ++ ' ' :: operandText a ++ ", ".toList ++ operandText b

/-- R61: the statements. -/
def stmtText : Stmt → List Char
  | .request dst c => recordText dst ++ " = ".toList ++ callText c
  | .ifEq n f v l =>
    "if ".toList ++ recordText n ++ '.' :: (outputText f).toList ++ " == ".toList ++ literalText v ++ " goto ".toList ++ natText l
  | .ifNe n f v l =>
    "if ".toList ++ recordText n ++ '.' :: (outputText f).toList ++ " != ".toList ++ literalText v ++ " goto ".toList ++ natText l
  | .goto l => "goto ".toList ++ natText l
  | .halt => "halt".toList
  | .nop => "NOP".toList

end Sys2Proof.Machine
end

