-- ==== Sys2Proof/Safety.lean ====
section
/-! DEFINITION. What counts as a good state and a good run, in the terms the statements use. -/

namespace Sys2Proof.Machine

/-- A good state. Each part follows a rule and every step keeps it. -/
structure State.Inv (s : State) : Prop where
  /-- the records are in canonical form, one per name (30_encoding.md R61) -/
  records_wf : recordsWf s.host.records = true
  /-- no response exists to a request that is outstanding (00_scope.md R5, 10_state.md R32) -/
  handshake : s.request = none ∨ s.response = none
  /-- a fault response stands in the host's record of the run (60_exceptions.md R113) -/
  fault_kept : ∀ c, s.response = some (.fault c) → s.faults.getLast? = some c
  /-- a program ends in FAULT(code) only for a fault of the run (R113) -/
  faulted_kept : ∀ c, s.host.status = .faulted c → c ∈ s.faults
  /-- the host waits only in a running program, at the statement that issued the request (R61) -/
  awaiting_ok : ∀ n, s.host.awaiting = some n →
    s.host.status = .running ∧ ∃ c, statementAt s.host.program s.host.counter = some (.request n c)

/-- A successful end of a host program: state DONE. FAULT(code) is never one (60_exceptions.md R113). -/
def State.Successful (s : State) : Prop := s.host.status = .done

/-- The responses to requests issued one after the other, each after the response to the one before (20_memory.md
R42); the list stops short if a request gets none. -/
def responses (s : State) : List Request → List (Option Response)
  | [] => []
  | r :: rest =>
    match step (s.issue r) with
    | .next t => t.response :: responses t rest
    | .fault _ => []
    | .refused _ => []

end Sys2Proof.Machine
end

