-- ==== Sys2Proof/Certificates/Slice0/Obligations.lean ====
section
/-! DEFINITION. The statements for the provers. OBLIGATIONS.json lists them with the rules they rest on. A completion
statement writes the next state out: the request is answered, the response is there, and the record update leaves the
host and the record of the run's faults as they were. -/

open Sys2Proof Sys2Proof.Machine

namespace Sys2Proof.Claims

/-- What R60 says each pseudo-instruction takes, on the operand values; for ROTR see the statement. -/
def pseudoExpected (p : Pseudo) (a b : WordPair) : PseudoResult :=
  match p with
  | .quo => .value (w128 (a.u / b.u : Nat))
  | .rem => .value (w128 (a.u % b.u : Nat))
  | .quo64 => .value (w128 (a.u / b.lo.toNat : Nat))
  | .rem64 => .value (w128 (a.u % b.lo.toNat : Nat))
  | .rotr => .value (rotl128 a (-(b.lo.toNat : Int)))
  | .adds => .value (w128 (a.s + b.s))
  | .subs => .value (w128 (a.s - b.s))
  | .muls => .value (w128 (a.s * b.s))
  | .eq => .test (decide (a = b))
  | .ne => .test (decide (a ≠ b))
  | .ltu => .test (decide (a.u < b.u))
  | .leu => .test (decide (a.u ≤ b.u))
  | .gtu => .test (decide (b.u < a.u))
  | .geu => .test (decide (b.u ≤ a.u))
  | .lts => .test (decide (a.s < b.s))
  | .les => .test (decide (a.s ≤ b.s))
  | .gts => .test (decide (b.s < a.s))
  | .ges => .test (decide (b.s ≤ a.s))

/-- A pattern is nearest to a real v among all finite float64 patterns, ties to the even fraction (R102). -/
def NearestEven (bits : Word) (v : ℚ) : Prop :=
  ∃ q, (f64Value bits).toRat = some q ∧
    ∀ (w : Word) (p : ℚ), (f64Value w).toRat = some p → p ≠ q →
      |q - v| < |p - v| ∨ (|q - v| = |p - v| ∧ bits.getLsbD 0 = false)

/-- What R103 says of the outputs of a conversion of the integer v to float64: Z and CF are 0, IR is 1, and EX is 1
exactly when the result is v, which is exactly when v has at most 53 significant bits. -/
def ExactWithin53Bits (o : Outputs) (v : Int) : Prop :=
  o.z = zeroPair ∧ o.cf = false ∧ o.ir = true ∧ (o.ex = true ↔ (f64Value o.y.lo).toRat = some (v : ℚ)) ∧
    (o.ex = true ↔ ∃ m k : Nat, m < 2 ^ 53 ∧ v.natAbs = m * 2 ^ k)

end Sys2Proof.Claims

open Sys2Proof.Claims

/-! ### Encoding -/

/-- For every instruction with every value of A and B, decoding its request word gives exactly that instruction.
(30_encoding.md section 1, 30_encoding.md section 2; derived.) -/
def Obligations.DecodeOfEncodedWord : Prop :=
  ∀ i : Instr, decodeWord (encodeWord i) = .ok i

/-- For every 261-bit word w and instruction i, if w decodes to i then the word of i is w: no bit of the word is
dropped. (30_encoding.md section 1, 30_encoding.md section 2; derived.) -/
def Obligations.EncodeOfDecodedWord : Prop :=
  ∀ (w : BitVec 261) (i : Instr), decodeWord w = .ok i → encodeWord i = w

/-- For every request, either its code is one of the twelve reserved codes and decoding names that code, or it is not
and decoding gives the one operation that has the code, on the request's A and B. (R57; stated.) -/
def Obligations.DecodingIsTotal : Prop :=
  ∀ r : Request,
    (r.op ∈ reservedCodes ∧ decode r = .error (.reservedCode r.op)) ∨
    (r.op ∉ reservedCodes ∧ ∃ m : Mnemonic, m.code = r.op ∧ decode r = .ok (m.instr r.a r.b) ∧
      ∀ m' : Mnemonic, m'.code = r.op → m' = m)

/-- For all 32 codes, selecting the unit group by OP[4:2] and the operation within it by OP[1:0] gives the same answer
as the flat table. (R47, 30_encoding.md section 2; derived.) -/
def Obligations.GroupSplitIsFlatTable : Prop :=
  ∀ op : BitVec 5, mnemonicByGroup op = mnemonicOfCode op

/-- For every 261-bit word w and operation m, (w AND mask) = match of m's row holds exactly when w decodes to m on some
operands. (R45, 30_encoding.md section 1; derived.) -/
def Obligations.TableRowMatchesItsOperation : Prop :=
  ∀ (w : BitVec 261) (m : Mnemonic), m.matchesWord w = true ↔ ∃ a b, decodeWord w = .ok (m.instr a b)

/-- The words of ADD {1,2},{3,4}; of DIVU64 {1,0},{0,3}; of CMPU64 {0,5},{7,5}; of CVTI2F {9,8},{0,0}; and of the
reserved code 0x1F decode as the tables say. (30_encoding.md section 1, 30_encoding.md section 2; derived.) -/
def Obligations.WrittenOutWordsDecode : Prop :=
  decodeWord 0x000000000000000001000000000000000200000000000000030000000000000004 = .ok (.add ⟨1, 2⟩ ⟨3, 4⟩) ∧
  decodeWord 0x0C0000000000000001000000000000000000000000000000000000000000000003 = .ok (.divu64 ⟨1, 0⟩ ⟨0, 3⟩) ∧
  decodeWord 0x1A0000000000000000000000000000000500000000000000070000000000000005 = .ok (.cmpu64 ⟨0, 5⟩ ⟨7, 5⟩) ∧
  decodeWord 0x1E0000000000000009000000000000000800000000000000000000000000000000 = .ok (.cvti2f ⟨9, 8⟩ ⟨0, 0⟩) ∧
  decodeWord 0x1F0000000000000001000000000000000200000000000000030000000000000004 = .error (.reservedCode 0x1F)

/-! ### The block as a whole -/

/-- For every state with an outstanding request that decodes to an instruction i, the step is exec of i at that state;
nothing is added around it. (00_scope.md section 4, 10_state.md section 2; derived.) -/
def Obligations.StepRunsOutstandingInstruction : Prop :=
  ∀ (s : State) (r : Request) (i : Instr), s.request = some r → decode r = .ok i → step s = exec i s

/-- For every state whose outstanding request has one of the twelve reserved codes, whatever A and B hold, the step
answers next with the ILLEGAL_OP fault response; the fault enters the host's record of the run (the form of that
record and the moment of writing it are the model's choice, assumption 8) and nothing else changes. (R110, R113;
derived.) -/
def Obligations.ReservedCodeIsIllegalOp : Prop :=
  ∀ (s : State) (r : Request), s.request = some r →
    r.op ∈ ([0x03, 0x07, 0x0A, 0x0B, 0x0E, 0x0F, 0x11, 0x12, 0x13, 0x17, 0x1B, 0x1F] : List (BitVec 5)) →
    step s = .next { s with
      request := none, response := some (.fault .illegalOp), faults := s.faults ++ [.illegalOp] }

/-- For every state with an outstanding request, the step answers next: the request is no longer outstanding, a response
exists, and program, counter, records, awaited record and status of the host are unchanged. The host's record of
faults is unchanged, or grows by the fault the response carries (the form of that record and the moment of writing
it are the model's choice, assumption 8). That the answer takes one atomic step is the spec's own decision D27.
(R127, R113, 70_reset_and_hazards.md section 4; derived.) -/
def Obligations.EveryRequestIsAnsweredAtOnce : Prop :=
  ∀ (s : State) (r : Request), s.request = some r →
    ∃ t, step s = .next t ∧ t.request = none ∧ t.response.isSome = true ∧ t.host = s.host ∧
      (t.faults = s.faults ∨ ∃ c, t.response = some (.fault c) ∧ t.faults = s.faults ++ [c])

/-- There is one function of the request such that, in every state with an outstanding request, the step answers next
with that function's response. (R6; stated.) -/
def Obligations.ResponseDependsOnRequestAlone : Prop :=
  ∃ f : Request → Response, ∀ (s : State) (r : Request), s.request = some r →
    ∃ t, step s = .next t ∧ t.response = some (f r)

/-- For every start state and every list of requests issued one after the other, every request is answered, in order, by
a response that depends on that request only; so issuing one again gives the same response, whatever came between.
(R40, R42, 20_memory.md section 5; derived.) -/
def Obligations.RequestSequenceAnsweredAlone : Prop :=
  ∃ f : Request → Response, ∀ (s : State) (rs : List Request),
    responses s rs = rs.map fun r => some (f r)

/-- For every state with an outstanding request: the step answers next; the response is DIV_ZERO exactly for DIVU with
u(B) = 0 and DIVU64 with B.lo = 0, ILLEGAL_OP exactly for a reserved code, and OK with outputs in every other case;
the two fault conditions exclude each other. (R107, R111, 60_exceptions.md section 1; derived.) -/
def Obligations.FaultsInExactlyTwoCases : Prop :=
  ∀ (s : State) (r : Request), s.request = some r →
    ∃ t, step s = .next t ∧
      (t.response = some (.fault .divZero) ↔ (r.op = 0x0D ∧ r.b.u = 0) ∨ (r.op = 0x0C ∧ r.b.lo = 0)) ∧
      (t.response = some (.fault .illegalOp) ↔ r.op ∈ reservedCodes) ∧
      ((∃ o, t.response = some (.ok o)) ↔
        r.op ∉ reservedCodes ∧ ¬((r.op = 0x0D ∧ r.b.u = 0) ∨ (r.op = 0x0C ∧ r.b.lo = 0)))

/-- For every fault code and state, raising the fault answers next: RS is FAULT, FC is 1 for DIV_ZERO and 2 for
ILLEGAL_OP, no output exists, reading one is refused (the model's choice of outcome, assumption 10), the fault is
the new last entry of the host's record of faults (the form of that record and the moment of writing it are the
model's choice, assumption 8), no request is outstanding, and the host's fields are unchanged. (R108, R109, R112,
R113, R21, 60_exceptions.md section 1; derived.) -/
def Obligations.RaisedFaultCarriesItsCodeOnly : Prop :=
  ∀ (c : FaultCode) (s : State), ∃ t x, raiseFault c s = .next t ∧ t.response = some x ∧ x.rs = 1 ∧
    x.fc = (match c with | .divZero => 1 | .illegalOp => 2) ∧ x.outputs = none ∧
    hostRead t = .refused .noOutputs ∧ t.request = none ∧ t.host = s.host ∧ t.faults = s.faults ++ [c]

/-- For every response, FC is not 3, and FC is 0 exactly when RS is OK. (R109, 60_exceptions.md section 1; derived.) -/
def Obligations.FaultCodeThreeIsNeverGiven : Prop :=
  ∀ x : Response, x.fc ≠ 3 ∧ (x.fc = 0 ↔ x.rs = 0)

/-- For every state, fault code, outputs and request: the request issued after the fault response and the same request
issued after an OK response are both answered, alike, and the fault stays in the host's record of the run (the form
of that record and the moment of writing it are the model's choice, assumption 8). (R113, 60_exceptions.md section
2; derived.) -/
def Obligations.FaultLeavesNothingBehind : Prop :=
  ∀ (s : State) (c : FaultCode) (o : Outputs) (r : Request),
    ∃ t t', step ((s.answer (.fault c)).issue r) = .next t ∧ step ((s.answer (.ok o)).issue r) = .next t' ∧
      t.response = t'.response ∧ t.host = t'.host ∧ c ∈ t.faults

/-- For every state and request: after a reset no request is outstanding and no response exists; the request issued
after the reset is answered as it is when issued without it. (R122, 70_reset_and_hazards.md section 1; derived.) -/
def Obligations.ResetChangesNoLaterResponse : Prop :=
  ∀ (s : State) (r : Request), s.applyReset.request = none ∧ s.applyReset.response = none ∧
    ∃ t t', step (s.applyReset.issue r) = .next t ∧ step (s.issue r) = .next t' ∧ t.response = t'.response

/-- For every state of a running program that waits for the response to the request of the statement at its counter:
after a reset, its next step issues the request of that statement again and keeps waiting. (Where the request had
been answered and the host had not yet received the answer, issuing it again is the model's choice, assumption 20.)
(R122, R61, 70_reset_and_hazards.md section 1; derived.) -/
def Obligations.HostIssuesAgainAfterReset : Prop :=
  ∀ (s : State) (dst : Nat) (c : Call) (r : Request), s.host.status = .running → s.host.awaiting = some dst →
    statementAt s.host.program s.host.counter = some (.request dst c) → c.wf = true →
    assembleCall s.host.records c = .next r →
    step s.applyReset = .next { s with request := some r, response := none }

/-- In the reset state no request is outstanding and no response exists, a host read of the response faults, and no
agent has a step. (That no host program runs there, and that the absence of a step is a refusal, are the model's
choices, assumptions 4 and 1.) (R32, R123, 10_state.md section 5; derived.) -/
def Obligations.ResetHoldsNoResponse : Prop :=
  State.reset.request = none ∧ State.reset.response = none ∧
  hostRead State.reset = .fault .noResponseToRead ∧ step State.reset = .refused .noRequest

/-- For every state and request: issuing with a request outstanding is refused, issuing without one makes the request
outstanding and removes the response to the one before (the model's choices, assumptions 3 and 21: a response counts
as received once given); reading with no response faults, reading a FAULT response is refused, reading an OK
response gives its outputs. (Which of the two stops a forbidden act takes is the model's choice, assumption 10,
where R32 does not say it.) (R33, R21, R32, 10_state.md section 6; derived.) -/
def Obligations.HostInterfaceReadsAndIssues : Prop :=
  ∀ (s : State) (r q : Request) (c : FaultCode) (o : Outputs),
    (s.request = some q → hostIssue r s = .refused .requestOutstanding) ∧
    (s.request = none → hostIssue r s = .next { s with request := some r, response := none }) ∧
    (s.response = none → hostRead s = .fault .noResponseToRead) ∧
    (s.response = some (.fault c) → hostRead s = .refused .noOutputs) ∧
    (s.response = some (.ok o) → hostRead s = .next o)

/-- For every instruction and state, exec answers next; the request is answered, a response exists, the host's program,
counter, records, awaited record and status are unchanged, and the host's record of faults changes only by the fault
the response carries (the form of that record and the moment of writing it are the model's choice, assumption 8).
(R15, R22, R39, R113, 10_state.md section 1, 20_memory.md section 3; derived.) -/
def Obligations.InstructionFrame : Prop :=
  ∀ (i : Instr) (s : State), ∃ t x, exec i s = .next t ∧ t.request = none ∧ t.response = some x ∧ t.host = s.host ∧
    (∀ o, x = .ok o → t.faults = s.faults) ∧ (∀ c, x = .fault c → t.faults = s.faults ++ [c])

/-- For every instruction, state and next state whose response is OK: FC is 0; Z is 0 except for DIVU and DIVU64; CF is
0 outside the add and subtract families; IR and EX are 0 outside the conversions. (R20; stated.) -/
def Obligations.OutputsNotSetAreZero : Prop :=
  ∀ (i : Instr) (s t : State) (o : Outputs), exec i s = .next t → t.response = some (.ok o) →
    (Response.ok o).fc = 0 ∧
    (i.mnemonic ≠ .divu → i.mnemonic ≠ .divu64 → o.z = zeroPair) ∧
    (i.mnemonic ∉ ([.add, .add64, .inc, .sub, .sub64, .dec] : List Mnemonic) → o.cf = false) ∧
    (i.mnemonic ∉ ([.cvtf2u, .cvtu2f, .cvti2f] : List Mnemonic) → o.ir = false ∧ o.ex = false)

/-- For every state and two requests with the same code that agree on the bits R48 says the operation reads, both are
answered and the two next states are equal; so no ignored bit is ever checked. (R49; stated.) -/
def Obligations.IgnoredBitsNeverMatter : Prop :=
  ∀ (s : State) (r r' : Request), r.op = r'.op →
    (∀ m, mnemonicOfCode r.op = some m → m.reads.agree r.a r.b r'.a r'.b = true) →
    ∃ t, step (s.issue r) = .next t ∧ step (s.issue r') = .next t

/-! ### The operations -/

/-- For every state and operands, code 0x00 decodes to ADD, and ADD answers with Y = w128(u(A) + u(B)), CF = 1 exactly
when the sum is 2^128 or more, Z, IR and EX 0, and nothing else changed. (R64; stated.) -/
def Obligations.AddIsWrappingSumWithCarry : Prop :=
  ∀ (s : State) (a b : WordPair),
    decode ⟨0x00, a, b⟩ = .ok (.add a b) ∧
    exec (.add a b) s = .next { s with request := none, response := some (.ok ⟨w128 (a.u + b.u : Nat), zeroPair, decide (2 ^ 128 ≤ a.u + b.u), false, false⟩) }

/-- For every state and operands, code 0x01 decodes to ADD64, and ADD64 answers with Y = w128(u(A) + B.lo), CF = 1
exactly when A.hi is all ones and the lo-to-hi carry is 1, Z, IR and EX 0; B.hi changes nothing. (R65; stated.) -/
def Obligations.Add64IsWrappingSumWithWord : Prop :=
  ∀ (s : State) (a b : WordPair),
    decode ⟨0x01, a, b⟩ = .ok (.add64 a b) ∧
    exec (.add64 a b) s = .next { s with request := none, response := some (.ok ⟨w128 (a.u + b.lo.toNat : Nat), zeroPair, decide (a.hi = 0xFFFFFFFFFFFFFFFF ∧ 2 ^ 64 ≤ a.lo.toNat + b.lo.toNat), false, false⟩) }

/-- For every state and operands, code 0x02 decodes to INC, and INC answers with Y = w128(u(A) + 1), CF = 1 exactly when
A is MaxUint128, Z, IR and EX 0; B is ignored. (R66; stated.) -/
def Obligations.IncAddsOne : Prop :=
  ∀ (s : State) (a b : WordPair),
    decode ⟨0x02, a, b⟩ = .ok (.inc a b) ∧
    exec (.inc a b) s = .next { s with request := none, response := some (.ok ⟨w128 (a.u + 1 : Nat), zeroPair, decide (a = maxUint128), false, false⟩) }

/-- For every state and operands, code 0x04 decodes to SUB, and SUB answers with Y = w128(u(A) - u(B)), CF = 1 exactly
when u(A) < u(B), Z, IR and EX 0. (R69; stated.) -/
def Obligations.SubIsWrappingDifferenceWithBorrow : Prop :=
  ∀ (s : State) (a b : WordPair),
    decode ⟨0x04, a, b⟩ = .ok (.sub a b) ∧
    exec (.sub a b) s = .next { s with request := none, response := some (.ok ⟨w128 ((a.u : Int) - b.u), zeroPair, decide (a.u < b.u), false, false⟩) }

/-- For every state and operands, code 0x05 decodes to SUB64, and SUB64 answers with Y = w128(u(A) - B.lo), CF = 1
exactly when A.hi = 0 and A.lo < B.lo, Z, IR and EX 0; B.hi is ignored. (R70; stated.) -/
def Obligations.Sub64SubtractsZeroExtendedWord : Prop :=
  ∀ (s : State) (a b : WordPair),
    decode ⟨0x05, a, b⟩ = .ok (.sub64 a b) ∧
    exec (.sub64 a b) s = .next { s with request := none, response := some (.ok ⟨w128 ((a.u : Int) - b.lo.toNat), zeroPair, decide (a.hi = 0 ∧ a.lo.toNat < b.lo.toNat), false, false⟩) }

/-- For every state and operands, code 0x06 decodes to DEC, and DEC answers with Y = w128(u(A) - 1), CF = 1 exactly when
A is Zero, Z, IR and EX 0; B is ignored; and INC of that Y gives A. (R71; stated.) -/
def Obligations.DecSubtractsOneAndIsUndoneByInc : Prop :=
  ∀ (s : State) (a b : WordPair),
    decode ⟨0x06, a, b⟩ = .ok (.dec a b) ∧
    exec (.dec a b) s = .next { s with request := none, response := some (.ok ⟨w128 ((a.u : Int) - 1), zeroPair, decide (a = zeroPair), false, false⟩) } ∧
    ∃ c, exec (.inc (w128 ((a.u : Int) - 1)) b) s = .next { s with request := none, response := some (.ok ⟨a, zeroPair, c, false, false⟩) }

/-- For every state and operands, code 0x08 decodes to MUL, and MUL answers with Y = w128(u(A) * u(B)) and CF, Z, IR and
EX 0. (R74; stated.) -/
def Obligations.MulIsLowProduct : Prop :=
  ∀ (s : State) (a b : WordPair),
    decode ⟨0x08, a, b⟩ = .ok (.mul a b) ∧
    exec (.mul a b) s = .next { s with request := none, response := some (.ok ⟨w128 (a.u * b.u : Nat), zeroPair, false, false, false⟩) }

/-- For every state and operands, code 0x09 decodes to MUL64, and MUL64 answers with Y = w128(u(A) * B.lo) and CF, Z, IR
and EX 0; B.hi is ignored. (R75; stated.) -/
def Obligations.Mul64IsLowProductWithWord : Prop :=
  ∀ (s : State) (a b : WordPair),
    decode ⟨0x09, a, b⟩ = .ok (.mul64 a b) ∧
    exec (.mul64 a b) s = .next { s with request := none, response := some (.ok ⟨w128 (a.u * b.lo.toNat : Nat), zeroPair, false, false, false⟩) }

/-- For every state and operands, ADD, SUB and MUL answer with a Y whose signed reading is s(A) + s(B), s(A) - s(B) and
s(A) * s(B) reduced into [-2^127, 2^127 - 1] modulo 2^128. (R67, R72, R76, R23; derived.) -/
def Obligations.SignedReadingOfAddSubMul : Prop :=
  ∀ (s : State) (a b : WordPair), ∃ ya yd ym ca cd,
    exec (.add a b) s = .next { s with request := none, response := some (.ok ⟨ya, zeroPair, ca, false, false⟩) } ∧
    exec (.sub a b) s = .next { s with request := none, response := some (.ok ⟨yd, zeroPair, cd, false, false⟩) } ∧
    exec (.mul a b) s = .next { s with request := none, response := some (.ok ⟨ym, zeroPair, false, false, false⟩) } ∧
    ya.s = (a.s + b.s).bmod (2 ^ 128) ∧ yd.s = (a.s - b.s).bmod (2 ^ 128) ∧ ym.s = (a.s * b.s).bmod (2 ^ 128)

/-- For every state and operands with B.lo nonzero, whatever B.hi holds, code 0x0C decodes to DIVU64, and DIVU64 answers
with Y and Z such that u(A) = B.lo * u(Y) + u(Z), u(Z) < B.lo and Z.hi = 0, and CF, IR and EX 0. (R79, R77, R83,
43_divider.md section 2; derived.) -/
def Obligations.Divu64QuotientAndRemainder : Prop :=
  ∀ (s : State) (a b : WordPair), b.lo ≠ 0 →
    decode ⟨0x0C, a, b⟩ = .ok (.divu64 a b) ∧
    ∃ y z : WordPair, exec (.divu64 a b) s = .next { s with request := none, response := some (.ok ⟨y, z, false, false, false⟩) } ∧
      a.u = b.lo.toNat * y.u + z.u ∧ z.u < b.lo.toNat ∧ z.hi = 0

/-- For every state and operands with B not Zero, code 0x0D decodes to DIVU, and DIVU answers with Y and Z such that
u(A) = u(B) * u(Y) + u(Z) and u(Z) < u(B), and CF, IR and EX 0. (R80, R77, 43_divider.md section 2; derived.) -/
def Obligations.DivuQuotientAndRemainder : Prop :=
  ∀ (s : State) (a b : WordPair), b ≠ zeroPair →
    decode ⟨0x0D, a, b⟩ = .ok (.divu a b) ∧
    ∃ y z : WordPair, exec (.divu a b) s = .next { s with request := none, response := some (.ok ⟨y, z, false, false, false⟩) } ∧
      a.u = b.u * y.u + z.u ∧ z.u < b.u

/-- For every state and operands: DIVU with u(B) = 0 and DIVU64 with B.lo = 0, whatever B.hi holds, answer with the
DIV_ZERO fault response, which carries FC 1 and no output; the fault enters the host's record of the run (the form
of that record and the moment of writing it are the model's choice, assumption 8) and nothing else changes. (R81,
R109, R113, R21; derived.) -/
def Obligations.DivisionByZeroFaults : Prop :=
  ∀ (s : State) (a b : WordPair),
    (b.u = 0 → exec (.divu a b) s = .next { s with request := none, response := some (.fault .divZero), faults := s.faults ++ [.divZero] }) ∧
    (b.lo = 0 → exec (.divu64 a b) s = .next { s with request := none, response := some (.fault .divZero), faults := s.faults ++ [.divZero] }) ∧
    (Response.fault .divZero).fc = 1 ∧ (Response.fault .divZero).outputs = none

/-- For every state and operands, DIVU answers: divisor 1 gives (A, 0); divisor 2^t gives u(A) >> t and u(A) mod 2^t;
equal nonzero operands give (1, 0); a dividend below the divisor gives (0, A). (R82; stated.) -/
def Obligations.DivisionShortcuts : Prop :=
  ∀ (s : State) (a b : WordPair),
    (b = ⟨0, 1⟩ → exec (.divu a b) s = .next { s with request := none, response := some (.ok ⟨a, zeroPair, false, false, false⟩) }) ∧
    (∀ t : Nat, b.u = 2 ^ t → exec (.divu a b) s =
      .next { s with request := none, response := some (.ok ⟨w128 (a.u / 2 ^ t : Nat), w128 (a.u % 2 ^ t : Nat), false, false, false⟩) }) ∧
    (a = b → b ≠ zeroPair → exec (.divu a b) s = .next { s with request := none, response := some (.ok ⟨⟨0, 1⟩, zeroPair, false, false, false⟩) }) ∧
    (a.u < b.u → exec (.divu a b) s = .next { s with request := none, response := some (.ok ⟨zeroPair, a, false, false, false⟩) })

/-- For every state and operands with B.hi = 0 and B.lo nonzero, DIVU and DIVU64 give the same OK response and the same
next state. (R84; stated.) -/
def Obligations.DividersAgreeOnWordDivisors : Prop :=
  ∀ (s : State) (a b : WordPair), b.hi = 0 → b.lo ≠ 0 →
    ∃ y z, exec (.divu a b) s = .next { s with request := none, response := some (.ok ⟨y, z, false, false, false⟩) } ∧
      exec (.divu64 a b) s = .next { s with request := none, response := some (.ok ⟨y, z, false, false, false⟩) }

/-- For every state and operands, code 0x10 decodes to NEG, and NEG answers with Y = w128(-s(A)) = w128(-u(A)), which is
MinInt128 for A = MinInt128 and w128(u(~A) + 1) in every case, with CF, Z, IR and EX 0; B is ignored. (R85; stated.) -/
def Obligations.NegIsTwosComplementNegation : Prop :=
  ∀ (s : State) (a b : WordPair),
    decode ⟨0x10, a, b⟩ = .ok (.neg a b) ∧
    exec (.neg a b) s = .next { s with request := none, response := some (.ok ⟨w128 (-a.s), zeroPair, false, false, false⟩) } ∧
    w128 (-a.s) = w128 (-(a.u : Int)) ∧ w128 (-a.s) = w128 (a.complement.u + 1 : Nat) ∧
    (a = minInt128 → w128 (-a.s) = minInt128)

/-- For every state and operands, NEG answers with some Y for which u(Y) = (2^128 - u(A)) mod 2^128, and NEG of that Y
answers with A. (R86; stated.) -/
def Obligations.NegIsInvolution : Prop :=
  ∀ (s : State) (a b : WordPair), ∃ y : WordPair,
    exec (.neg a b) s = .next { s with request := none, response := some (.ok ⟨y, zeroPair, false, false, false⟩) } ∧ y.u = (2 ^ 128 - a.u) % 2 ^ 128 ∧
    exec (.neg y b) s = .next { s with request := none, response := some (.ok ⟨a, zeroPair, false, false, false⟩) }

/-- For every state and operands, code 0x14 decodes to LSH, and with n = B.lo LSH answers with Y = w128(u(A) * 2^n),
equal word by word to the boundary cases n = 0, 0 < n < 64, n = 64, 64 < n < 128, and Zero for n >= 128; CF, Z, IR
and EX are 0. (R88; stated.) -/
def Obligations.LshWordByWord : Prop :=
  ∀ (s : State) (a b : WordPair), decode ⟨0x14, a, b⟩ = .ok (.lsh a b) ∧
    ∃ y, exec (.lsh a b) s = .next { s with request := none, response := some (.ok ⟨y, zeroPair, false, false, false⟩) } ∧
      y = w128 (a.u * 2 ^ b.lo.toNat : Nat) ∧
      (b.lo.toNat = 0 → y = a) ∧
      (0 < b.lo.toNat → b.lo.toNat < 64 →
        y = ⟨w64 (a.hi.toNat * 2 ^ b.lo.toNat + a.lo.toNat / 2 ^ (64 - b.lo.toNat) : Nat),
             w64 (a.lo.toNat * 2 ^ b.lo.toNat : Nat)⟩) ∧
      (b.lo.toNat = 64 → y = ⟨a.lo, 0⟩) ∧
      (64 < b.lo.toNat → b.lo.toNat < 128 → y = ⟨w64 (a.lo.toNat * 2 ^ (b.lo.toNat - 64) : Nat), 0⟩) ∧
      (128 ≤ b.lo.toNat → y = zeroPair)

/-- For every state and operands, code 0x15 decodes to RSH, and with n = B.lo RSH answers with Y = w128(u(A) div 2^n),
equal word by word to the boundary cases n = 0, 0 < n < 64, n = 64, 64 < n < 128, and Zero for n >= 128; CF, Z, IR
and EX are 0. (R89; stated.) -/
def Obligations.RshWordByWord : Prop :=
  ∀ (s : State) (a b : WordPair), decode ⟨0x15, a, b⟩ = .ok (.rsh a b) ∧
    ∃ y, exec (.rsh a b) s = .next { s with request := none, response := some (.ok ⟨y, zeroPair, false, false, false⟩) } ∧
      y = w128 (a.u / 2 ^ b.lo.toNat : Nat) ∧
      (b.lo.toNat = 0 → y = a) ∧
      (0 < b.lo.toNat → b.lo.toNat < 64 →
        y = ⟨w64 (a.hi.toNat / 2 ^ b.lo.toNat : Nat),
             w64 (a.lo.toNat / 2 ^ b.lo.toNat + a.hi.toNat * 2 ^ (64 - b.lo.toNat) : Nat)⟩) ∧
      (b.lo.toNat = 64 → y = ⟨0, a.hi⟩) ∧
      (64 < b.lo.toNat → b.lo.toNat < 128 → y = ⟨0, w64 (a.hi.toNat / 2 ^ (b.lo.toNat - 64) : Nat)⟩) ∧
      (128 ≤ b.lo.toNat → y = zeroPair)

/-- For every state and operands, code 0x16 decodes to ROTL, and ROTL answers with a Y whose bit i, for i below 128, is
bit (i - k) mod 128 of A, where k is B.lo read as two's complement; CF, Z, IR and EX are 0. (R90, R52, 45_shifter.md
section 2, 95_test_vectors.md W16; derived.) -/
def Obligations.RotlBitByBit : Prop :=
  ∀ (s : State) (a b : WordPair), decode ⟨0x16, a, b⟩ = .ok (.rotl a b) ∧
    ∃ y : WordPair, exec (.rotl a b) s = .next { s with request := none, response := some (.ok ⟨y, zeroPair, false, false, false⟩) } ∧
      ∀ i : Nat, i < 128 → y.bit i = a.bit (((i : Int) - s64 b.lo) % 128).toNat

/-- For every amount and state: every Y is the ROTL of exactly one x; ROTL by k and then by -k gives x back (the amount
-2^63 included); ROTL by 128 gives x; amounts k and k + 128 agree when both fit in 64-bit two's complement. (R91;
stated.) -/
def Obligations.RotationLaws : Prop :=
  ∀ (s : State) (x k : WordPair),
    (∃ v : WordPair, exec (.rotl v k) s = .next { s with request := none, response := some (.ok ⟨x, zeroPair, false, false, false⟩) } ∧
      ∀ v' : WordPair, exec (.rotl v' k) s = .next { s with request := none, response := some (.ok ⟨x, zeroPair, false, false, false⟩) } → v' = v) ∧
    (∃ y : WordPair, exec (.rotl x k) s = .next { s with request := none, response := some (.ok ⟨y, zeroPair, false, false, false⟩) } ∧
      exec (.rotl y ⟨0, w64 (-s64 k.lo)⟩) s = .next { s with request := none, response := some (.ok ⟨x, zeroPair, false, false, false⟩) }) ∧
    exec (.rotl x ⟨0, 128⟩) s = .next { s with request := none, response := some (.ok ⟨x, zeroPair, false, false, false⟩) } ∧
    (s64 k.lo + 128 < 2 ^ 63 →
      exec (.rotl x ⟨0, w64 (s64 k.lo + 128)⟩) s = exec (.rotl x k) s)

/-- For every state and operands, code 0x18 decodes to CMPS, and CMPS answers with Y = w128(sign(s(A) - s(B))) and CF,
Z, IR and EX 0. (R93; stated.) -/
def Obligations.CmpsIsSignedOrder : Prop :=
  ∀ (s : State) (a b : WordPair),
    decode ⟨0x18, a, b⟩ = .ok (.cmps a b) ∧
    exec (.cmps a b) s = .next { s with request := none, response := some (.ok ⟨w128 (a.s - b.s).sign, zeroPair, false, false, false⟩) }

/-- For every state and operands, code 0x19 decodes to CMPU, and CMPU answers with Y = w128(sign(u(A) - u(B))) and CF,
Z, IR and EX 0. (R94; stated.) -/
def Obligations.CmpuIsUnsignedOrder : Prop :=
  ∀ (s : State) (a b : WordPair),
    decode ⟨0x19, a, b⟩ = .ok (.cmpu a b) ∧
    exec (.cmpu a b) s = .next { s with request := none, response := some (.ok ⟨w128 ((a.u : Int) - b.u).sign, zeroPair, false, false, false⟩) }

/-- For every state and operands, code 0x1A decodes to CMPU64, and CMPU64 answers with Y = w128(sign(u(A) - B.lo)) and
CF, Z, IR and EX 0; B.hi is ignored. (R95; stated.) -/
def Obligations.Cmpu64ComparesWithWord : Prop :=
  ∀ (s : State) (a b : WordPair),
    decode ⟨0x1A, a, b⟩ = .ok (.cmpu64 a b) ∧
    exec (.cmpu64 a b) s = .next { s with request := none, response := some (.ok ⟨w128 ((a.u : Int) - b.lo.toNat).sign, zeroPair, false, false, false⟩) }

/-- For every state and operands, CMPU and CMPS answer with a Yu and a Ys on which Equal, LessThan, GreaterThan,
LessOrEqual and GreaterOrEqual say exactly what the unsigned and the signed order say, and Equal says A = B for
both. (R96, R92, 46_comparator.md section 3; derived.) -/
def Obligations.DerivedPredicatesDecideTheOrder : Prop :=
  ∀ (s : State) (a b : WordPair), ∃ yu ys : WordPair,
    exec (.cmpu a b) s = .next { s with request := none, response := some (.ok ⟨yu, zeroPair, false, false, false⟩) } ∧
    exec (.cmps a b) s = .next { s with request := none, response := some (.ok ⟨ys, zeroPair, false, false, false⟩) } ∧
    (equalOf yu = true ↔ a = b) ∧ (equalOf ys = true ↔ a = b) ∧
    (lessThanOf yu = true ↔ a.u < b.u) ∧ (lessThanOf ys = true ↔ a.s < b.s) ∧
    (greaterThanOf yu = true ↔ b.u < a.u) ∧ (greaterThanOf ys = true ↔ b.s < a.s) ∧
    (lessOrEqualOf yu = true ↔ a.u ≤ b.u) ∧ (lessOrEqualOf ys = true ↔ a.s ≤ b.s) ∧
    (greaterOrEqualOf yu = true ↔ b.u ≤ a.u) ∧ (greaterOrEqualOf ys = true ↔ b.s ≤ a.s)

/-- For every state and operands, code 0x1C decodes to CVTF2U and it answers with Z and CF 0 and: for a finite float of
value q, IR = 1 exactly when 0 <= q <= 2^128 - 1, EX = 1 exactly when moreover u(Y) = q, u(Y) is q truncated when in
range, Zero below the range and MaxUint128 above it; for +Inf MaxUint128, for -Inf and every NaN Zero, with IR and
EX 0. Float64 values are read as R97 and R98 give them (general knowledge the spec supplies, assumption 15). (R100,
R101, R25, R26, R97, R98, 47_converters.md section 2; derived.) -/
def Obligations.Cvtf2uTruncatesFlagsAndClamps : Prop :=
  ∀ (s : State) (a b : WordPair), decode ⟨0x1C, a, b⟩ = .ok (.cvtf2u a b) ∧
    ∃ (y : WordPair) (ir ex : Bool),
      exec (.cvtf2u a b) s = .next { s with request := none, response := some (.ok ⟨y, zeroPair, false, ir, ex⟩) } ∧
      (∀ q : ℚ, (f64Value a.lo).toRat = some q →
        (ir = true ↔ 0 ≤ q ∧ q ≤ 2 ^ 128 - 1) ∧
        (ex = true ↔ ir = true ∧ q = y.u) ∧
        (ir = true → (y.u : Int) = ⌊q⌋) ∧
        (q < 0 → y = zeroPair) ∧ (2 ^ 128 - 1 < q → y = maxUint128)) ∧
      (∀ neg, f64Value a.lo = .inf neg → y = (if neg then zeroPair else maxUint128) ∧ ir = false ∧ ex = false) ∧
      (f64Value a.lo = .nan → y = zeroPair ∧ ir = false ∧ ex = false)

/-- For every state and operands, code 0x1D decodes to CVTU2F and, with U2F_ROUND at its default RNE (assumption 6), it
answers with Y = {0, bits}, sign 0, Z and CF 0, IR 1, where bits is the finite pattern nearest to u(A), ties to the
even fraction, and EX = 1 exactly when its value is u(A). Float64 values are read as R97 and R98 give them (general
knowledge the spec supplies, assumption 15). (R102, R104, R97, R98, 47_converters.md section 3; derived.) -/
def Obligations.Cvtu2fRoundsToNearestEven : Prop :=
  ∀ (s : State) (a b : WordPair), decode ⟨0x1D, a, b⟩ = .ok (.cvtu2f a b) ∧
    ∃ (bits : Word) (ex : Bool),
      exec (.cvtu2f a b) s = .next { s with request := none, response := some (.ok ⟨⟨0, bits⟩, zeroPair, false, true, ex⟩) } ∧
      bits.getLsbD 63 = false ∧ NearestEven bits a.u ∧ (ex = true ↔ (f64Value bits).toRat = some (a.u : ℚ))

/-- For every state and operands, code 0x1E decodes to CVTI2F and, with U2F_ROUND at its default RNE (assumption 6), it
answers with Y = {0, bits}, Z and CF 0, IR 1, where the sign bit is that of A (so Zero gives +0.0), bits is the
finite pattern nearest to s(A), ties to the even fraction, and EX = 1 exactly when its value is s(A). Float64 values
are read as R97 and R98 give them (general knowledge the spec supplies, assumption 15). (R105, R102, R97, R98,
47_converters.md section 3; derived.) -/
def Obligations.Cvti2fRoundsSignedToNearestEven : Prop :=
  ∀ (s : State) (a b : WordPair), decode ⟨0x1E, a, b⟩ = .ok (.cvti2f a b) ∧
    ∃ (bits : Word) (ex : Bool),
      exec (.cvti2f a b) s = .next { s with request := none, response := some (.ok ⟨⟨0, bits⟩, zeroPair, false, true, ex⟩) } ∧
      bits.getLsbD 63 = a.sign ∧ NearestEven bits a.s ∧ (ex = true ↔ (f64Value bits).toRat = some (a.s : ℚ))

/-- For every operand A and every rounding that is admissible at the integer it is given (so for every value of the open
parameter U2F_ROUND), the outputs of CVTU2F and of CVTI2F have Z and CF 0 and IR 1, and EX = 1 exactly when the
float64 result equals the integer, which is exactly when the integer's magnitude, stripped of trailing zero bits,
has at most 53 significant bits; and for every state and operands, exec of the two instructions, with the parameter
at its default (assumption 6), answers with outputs of which the same holds. Float64 values are read as R97 and R98
give them (general knowledge the spec supplies, assumption 15). (R103, R7, R97, R98, 47_converters.md section 3;
derived.) -/
def Obligations.IntToFloatFlags : Prop :=
  (∀ (r : Rounding) (a : WordPair), r.AdmissibleAt a.u → ExactWithin53Bits (cvtu2fOutputs r a) a.u) ∧
  (∀ (r : Rounding) (a : WordPair), r.AdmissibleAt a.s.natAbs → ExactWithin53Bits (cvti2fOutputs r a) a.s) ∧
  ∀ (s : State) (a b : WordPair), ∃ ou oi : Outputs,
    exec (.cvtu2f a b) s = .next { s with request := none, response := some (.ok ou) } ∧
    exec (.cvti2f a b) s = .next { s with request := none, response := some (.ok oi) } ∧
    ExactWithin53Bits ou a.u ∧ ExactWithin53Bits oi a.s

/-- For every integer v below 2^128, rne(v) is a finite pattern of sign 0 with |value - v| at most 2^-53 of v; so zero
converts exactly. Float64 values are read as R97 and R98 give them (general knowledge the spec supplies, assumption
15). (R106, R102, R97, R98, 47_converters.md section 3; derived.) -/
def Obligations.RneMeetsAccuracyBound : Prop :=
  ∀ v : Nat, v < 2 ^ 128 → ∃ q : ℚ, (f64Value (rne v).1).toRat = some q ∧
    (rne v).1.getLsbD 63 = false ∧ |q - v| * 2 ^ 53 ≤ v

/-- The rounding the model fixes for the open parameter U2F_ROUND (its default, assumption 6) gives for every integer
below 2^128 a finite pattern, exact on zero and on integers of at most 53 significant bits, within relative error
2^-52 otherwise, and flagged exact exactly when it equals the integer. Float64 values are read as R97 and R98 give
them (general knowledge the spec supplies, assumption 15). (R7, R106, R97, R98, 92_eei_decisions.md D11; derived.) -/
def Obligations.DefaultRoundingIsAdmissible : Prop :=
  Rounding.Admissible Config.u2fRound

/-! ### The host -/

/-- For every state with the invariant (records in canonical form; no response while a request is outstanding; a fault
response stands in the host's record of the run, and so does the fault a program ended in; the host waits only at
the statement that issued), if the step answers next then the next state has it. (That a response is removed when
the next request is issued, and the form of the record of faults, are the model's choices, assumptions 3 and 8.)
(R5, R61, R113, 00_scope.md section 4, 60_exceptions.md section 2; derived.) -/
def Obligations.GoodStateIsKept : Prop :=
  ∀ s t : State, s.Inv → step s = .next t → t.Inv

/-- The state right after reset satisfies the invariant that every step keeps. The host's fields in it are the model's
choice (assumption 4). (R32, 10_state.md section 5; derived.) -/
def Obligations.ResetStateIsGood : Prop :=
  State.reset.Inv

/-- For every state with the invariant: the state in which a program starts, with any preset records, has it, runs, and
stands at statement 1; the state with any request issued has it, by the bare act, by hostIssue where that answers
next, and by a table word; and the state after a reset has it. (What these acts do to the response and to the host's
fields, where the spec is silent, is the model's choice, assumptions 3, 4, 19 and 21.) (R61, R33, R122, 10_state.md
section 6, 30_encoding.md section 5; derived.) -/
def Obligations.OutsideActsKeepGoodState : Prop :=
  ∀ s : State, s.Inv →
    (∀ (p : List Stmt) (presets : List (Nat × WordPair)),
      (s.loadProgram p presets).Inv ∧ (s.loadProgram p presets).host.status = .running ∧
        (s.loadProgram p presets).host.counter = 1) ∧
    (∀ r : Request, (s.issue r).Inv ∧ ∀ t, hostIssue r s = .next t → t.Inv) ∧
    (∀ nbits w : Nat, (s.withFetchWord nbits w).Inv) ∧
    s.applyReset.Inv

/-- For every running program at a well-formed request statement whose operands can be read, with no request outstanding
and none awaited: the first step issues that request, the second answers it without touching the host, and the third
keeps an OK response as the named record (all others as before) and goes to the next statement, or, on a fault
response, ends the program in FAULT(code) at that statement with every record as it was, an earlier one of that name
included (the model's choice, assumption 18), after which there is no step (assumption 12). (R61, R113,
30_encoding.md section 5; derived.) -/
def Obligations.HostRequestStatementRoundTrip : Prop :=
  ∀ (s : State) (dst : Nat) (c : Call) (r : Request), s.request = none → s.host.status = .running →
    s.host.awaiting = none → statementAt s.host.program s.host.counter = some (.request dst c) → c.wf = true →
    assembleCall s.host.records c = .next r →
    ∃ t1 t2 t3 x, step s = .next t1 ∧ t1.request = some r ∧
      t1.host = { s.host with awaiting := some dst } ∧
      step t1 = .next t2 ∧ t2.response = some x ∧ t2.host = t1.host ∧
      step t2 = .next t3 ∧ t3.host.program = s.host.program ∧ t3.host.awaiting = none ∧
      (∀ o, x = .ok o → getRecord dst t3.host.records = some o ∧
        (∀ k, k ≠ dst → getRecord k t3.host.records = getRecord k s.host.records) ∧
        t3.host.counter = s.host.counter + 1 ∧ t3.host.status = .running) ∧
      (∀ f, x = .fault f → t3.host.records = s.host.records ∧ t3.host.counter = s.host.counter ∧
        t3.host.status = .faulted f ∧ ¬t3.Successful ∧ step t3 = .refused .noRequest)

/-- For every running program with no request outstanding and none awaited, at a well-formed statement: a test goes to
its target when the record's output has (or, for !=, has not) the literal's value and to the next statement
otherwise; a test of a record never kept is a read of no response and faults (the model's reading, assumption 10);
goto goes to its target; halt leaves the counter and ends in DONE; NOP goes to the next statement (the model's
reading, assumption 14); no request is issued and no record changes. (R61, R60, R32, 30_encoding.md section 5;
derived.) -/
def Obligations.HostControlStatements : Prop :=
  ∀ (s : State) (st : Stmt), s.request = none → s.host.status = .running → s.host.awaiting = none →
    statementAt s.host.program s.host.counter = some st → st.wf s.host.program.length = true →
    (∀ n f v l o x, st = .ifEq n f v l → getRecord n s.host.records = some o → literalValue v = some x →
      step s = .next { s with host := { s.host with
        counter := if o.get f = x then l else s.host.counter + 1 } }) ∧
    (∀ n f v l o x, st = .ifNe n f v l → getRecord n s.host.records = some o → literalValue v = some x →
      step s = .next { s with host := { s.host with
        counter := if o.get f ≠ x then l else s.host.counter + 1 } }) ∧
    (∀ n f v l, st = .ifEq n f v l ∨ st = .ifNe n f v l → getRecord n s.host.records = none →
      step s = .fault .noResponseToRead) ∧
    (∀ l, st = .goto l → step s = .next { s with host := { s.host with counter := l } }) ∧
    (st = .halt → step s = .next { s with host := { s.host with status := .done, awaiting := none } }) ∧
    (st = .nop → step s = .next { s with host := { s.host with counter := s.host.counter + 1 } })

/-- For every state with an outstanding request and every other host, the step answers next, and with the other host in
place it answers with the same response and record of faults and the other host as it was. (R61, R17, 30_encoding.md
section 5; derived.) -/
def Obligations.BlockNeverSeesTheHost : Prop :=
  ∀ (s : State) (h : HostState) (r : Request), s.request = some r →
    ∃ t, step s = .next t ∧ step { s with host := h } = .next { t with host := h }

/-- For every state, pseudo-instruction and operand values (the divisor of QUO and REM not Zero, of QUO64 and REM64 with
a nonzero low word), its expansion decodes and completes with outputs from which the value or test of R60 is taken;
ROTR by k is the rotation left by -k. (How the operands are encoded is the model's reading, assumptions 11 and 14.)
(R60, R96, 30_encoding.md section 5; derived.) -/
def Obligations.PseudoInstructionsTakeTheirResult : Prop :=
  ∀ (s : State) (p : Pseudo) (a b : WordPair),
    (p = .quo ∨ p = .rem → b ≠ zeroPair) → (p = .quo64 ∨ p = .rem64 → b.lo ≠ 0) →
    ∃ i o, decode (assembleOp (pseudoBase p) a (pseudoOperand p b)) = .ok i ∧
      exec i s = .next { s with request := none, response := some (.ok o) } ∧
      pseudoResult p o = pseudoExpected p a b

/-- For every decimal real x whose binary64 pattern the assembler gives, the value of that pattern is exactly x. Float64
values are read as R97 and R98 give them (general knowledge the spec supplies, assumption 15). The decimal form of x
is the model's (assumption 16). (R59, R97, R98, 30_encoding.md section 5; derived.) -/
def Obligations.F64OperandHasItsValue : Prop :=
  ∀ (x : Decimal) (bits : Word), f64OfDecimal x = some bits → (f64Value bits).toRat = some x.toRat
end

