-- ==== Sys2Proof/Laws/Arith.lean ====
section
/-! SUPPORT. The laws of the notation (00_scope.md R9, R11): `u` is injective and below 2^128, `u (w128 v)` is
`v mod 2^128`, `s` and `u` agree modulo 2^128. -/

namespace Sys2Proof

theorem WordPair.u_lt (x : WordPair) : x.u < 2 ^ 128 := by
  have h1 := x.hi.isLt
  have h2 := x.lo.isLt
  unfold WordPair.u
  omega

theorem WordPair.u_hi (x : WordPair) : x.u / 2 ^ 64 = x.hi.toNat := by
  have h2 := x.lo.isLt
  unfold WordPair.u
  omega

theorem WordPair.u_lo (x : WordPair) : x.u % 2 ^ 64 = x.lo.toNat := by
  have h2 := x.lo.isLt
  unfold WordPair.u
  omega

/-- A word pair is determined by its unsigned reading (R9: "the unique word pair"). -/
theorem WordPair.u_injective {x y : WordPair} (h : x.u = y.u) : x = y := by
  have h1 : x.hi.toNat = y.hi.toNat := by rw [← x.u_hi, ← y.u_hi, h]
  have h2 : x.lo.toNat = y.lo.toNat := by rw [← x.u_lo, ← y.u_lo, h]
  cases x; cases y
  simp only [WordPair.mk.injEq]
  exact ⟨BitVec.eq_of_toNat_eq h1, BitVec.eq_of_toNat_eq h2⟩

theorem u_mk (h l : Word) : (WordPair.mk h l).u = h.toNat * 2 ^ 64 + l.toNat := rfl

/-- R9: `u(w128(v)) = v mod 2^128`. -/
theorem u_w128 (v : Int) : ((w128 v).u : Int) = v % 2 ^ 128 := by
  have h0 : 0 ≤ v % 2 ^ 128 := Int.emod_nonneg v (by norm_num)
  have h1 : v % 2 ^ 128 < 2 ^ 128 := Int.emod_lt_of_pos v (by norm_num)
  simp only [w128, WordPair.u, BitVec.toNat_ofNat]
  omega

theorem u_w128_nat (v : Nat) : (w128 v).u = v % 2 ^ 128 := by
  have h := u_w128 (v : Int)
  omega

theorem u_w128_of_lt {v : Nat} (h : v < 2 ^ 128) : (w128 v).u = v := by
  rw [u_w128_nat, Nat.mod_eq_of_lt h]

/-- A word pair is `w128(v)` exactly when it reads as v modulo 2^128. -/
theorem eq_w128_iff (x : WordPair) (v : Int) : x = w128 v ↔ (x.u : Int) = v % 2 ^ 128 := by
  constructor
  · rintro rfl; exact u_w128 v
  · intro h
    apply WordPair.u_injective
    have := u_w128 v
    omega

@[simp] theorem w128_u (x : WordPair) : w128 x.u = x := by
  apply WordPair.u_injective
  rw [u_w128_of_lt x.u_lt]

theorem toNat_w64 (v : Int) : ((w64 v).toNat : Int) = v % 2 ^ 64 := by
  have h0 : 0 ≤ v % 2 ^ 64 := Int.emod_nonneg v (by norm_num)
  have h1 : v % 2 ^ 64 < 2 ^ 64 := Int.emod_lt_of_pos v (by norm_num)
  simp only [w64, BitVec.toNat_ofNat]
  omega

theorem toNat_w64_nat (v : Nat) : (w64 v).toNat = v % 2 ^ 64 := by
  have h := toNat_w64 (v : Int)
  omega

@[simp] theorem zeroPair_u : zeroPair.u = 0 := by decide
@[simp] theorem maxUint128_u : maxUint128.u = 2 ^ 128 - 1 := by decide
@[simp] theorem maxInt128_u : maxInt128.u = 2 ^ 127 - 1 := by decide
@[simp] theorem minInt128_u : minInt128.u = 2 ^ 127 := by decide
@[simp] theorem zext128_u (w : Word) : (zext128 w).u = w.toNat := by simp [zext128, WordPair.u]

theorem u_eq_zero_iff (x : WordPair) : x.u = 0 ↔ x = zeroPair := by
  constructor
  · intro h; exact WordPair.u_injective (by simpa using h)
  · rintro rfl; exact zeroPair_u

/-- R9: the sign bit is set exactly when the unsigned reading is at least 2^127. -/
theorem WordPair.sign_iff (x : WordPair) : x.sign = true ↔ 2 ^ 127 ≤ x.u := by
  have h1 := x.hi.isLt
  have h2 := x.lo.isLt
  have h3 : x.sign = x.hi.msb := by simp [WordPair.sign, BitVec.msb_eq_getLsbD_last]
  rw [h3, BitVec.msb_eq_decide, decide_eq_true_iff]
  unfold WordPair.u
  omega

theorem WordPair.sign_false_iff (x : WordPair) : x.sign = false ↔ x.u < 2 ^ 127 := by
  rw [← Bool.not_eq_true, x.sign_iff]; omega

/-- R9: the two readings, as a case split without the sign bit. -/
theorem WordPair.s_cases (x : WordPair) :
    (x.sign = true ∧ 2 ^ 127 ≤ x.u ∧ x.s = (x.u : Int) - 2 ^ 128) ∨ (x.sign = false ∧ x.u < 2 ^ 127 ∧ x.s = x.u) := by
  unfold WordPair.s
  cases h : x.sign
  · exact .inr ⟨rfl, x.sign_false_iff.mp h, by simp⟩
  · exact .inl ⟨rfl, x.sign_iff.mp h, by simp⟩

theorem WordPair.s_emod (x : WordPair) : x.s % 2 ^ 128 = x.u := by
  have := x.u_lt
  rcases x.s_cases with ⟨-, -, h⟩ | ⟨-, -, h⟩ <;> omega

theorem WordPair.complement_u (x : WordPair) : x.complement.u = 2 ^ 128 - 1 - x.u := by
  have h1 := x.hi.isLt
  have h2 := x.lo.isLt
  simp only [WordPair.complement, WordPair.u, BitVec.toNat_not]
  omega

/-- R52: a word and its signed reading agree modulo 2^64. -/
theorem s64_emod (w : Word) : s64 w % 2 ^ 64 = w.toNat := by
  have := w.isLt
  unfold s64
  split <;> omega

/-- R11: `bitlen(v)` is the least n with `v < 2^n`. -/
theorem bitlen_le_iff (v n : Nat) : bitlen v ≤ n ↔ v < 2 ^ n := by
  unfold bitlen
  split
  · next h => subst h; simp
  · next h => rw [Nat.succ_le_iff, Nat.log2_lt h]

theorem bitlen_pos {v : Nat} (h : v ≠ 0) : 0 < bitlen v := by simp [bitlen, h]

theorem lt_two_pow_bitlen (v : Nat) : v < 2 ^ bitlen v := (bitlen_le_iff v _).mp le_rfl

theorem two_pow_bitlen_le {v : Nat} (h : v ≠ 0) : 2 ^ (bitlen v - 1) ≤ v := by
  have hp := bitlen_pos h
  by_contra hc
  have := (bitlen_le_iff v (bitlen v - 1)).mpr (by omega)
  omega

end Sys2Proof
end

