-- ==== Sys2Proof/Laws/Encoding.lean ====
section
/-! SUPPORT. The request word and its fields (30_encoding.md R45) are two forms of one thing. -/

namespace Sys2Proof

/-- The bits of a request word: the fields of R45, B.lo lowest. -/
theorem getLsbD_toWord (r : Request) (i : Nat) :
    r.toWord.getLsbD i =
      if i < 64 then r.b.lo.getLsbD i
      else if i < 128 then r.b.hi.getLsbD (i - 64)
      else if i < 192 then r.a.lo.getLsbD (i - 128)
      else if i < 256 then r.a.hi.getLsbD (i - 192)
      else r.op.getLsbD (i - 256) := by
  have e : r.toWord.getLsbD i = (r.op ++ r.a.hi ++ r.a.lo ++ r.b.hi ++ r.b.lo).getLsbD i := rfl
  rw [e, BitVec.getLsbD_append, BitVec.getLsbD_append, BitVec.getLsbD_append, BitVec.getLsbD_append]
  simp only [Nat.sub_sub, Nat.reduceAdd]
  by_cases h1 : i < 64
  · simp only [if_pos h1]
  by_cases h2 : i < 128
  · simp only [if_neg h1, if_pos h2, if_pos (show i - 64 < 64 by omega)]
  by_cases h3 : i < 192
  · simp only [if_neg h1, if_neg h2, if_pos h3, if_neg (show ¬i - 64 < 64 by omega), if_pos (show i - 128 < 64 by omega)]
  by_cases h4 : i < 256
  · simp only [if_neg h1, if_neg h2, if_neg h3, if_pos h4, if_neg (show ¬i - 64 < 64 by omega),
      if_neg (show ¬i - 128 < 64 by omega), if_pos (show i - 192 < 64 by omega)]
  · simp only [if_neg h1, if_neg h2, if_neg h3, if_neg h4, if_neg (show ¬i - 64 < 64 by omega),
      if_neg (show ¬i - 128 < 64 by omega), if_neg (show ¬i - 192 < 64 by omega)]

/-- A field of a request word, bit by bit. -/
theorem extract_toWord (r : Request) (start len : Nat) (f : BitVec len)
    (h : ∀ i < len, r.toWord.getLsbD (start + i) = f.getLsbD i) : r.toWord.extractLsb' start len = f := by
  apply BitVec.eq_of_getLsbD_eq
  intro i hi
  rw [BitVec.getLsbD_extractLsb', decide_eq_true hi, Bool.true_and, h i hi]

/-- The fields of a request word as bit fields of it (R45). -/
theorem ofWord_eq (w : BitVec 261) :
    Request.ofWord w = ⟨w.extractLsb' 256 5, ⟨w.extractLsb' 192 64, w.extractLsb' 128 64⟩,
      ⟨w.extractLsb' 64 64, w.extractLsb' 0 64⟩⟩ := rfl

/-- Packing, then taking the fields apart, gives the request back. -/
theorem ofWord_toWord (r : Request) : Request.ofWord r.toWord = r := by
  have e1 : r.toWord.extractLsb' 256 5 = r.op := extract_toWord r 256 5 _ fun i hi => by
    rw [getLsbD_toWord, if_neg (by omega), if_neg (by omega), if_neg (by omega), if_neg (by omega), Nat.add_sub_cancel_left]
  have e2 : r.toWord.extractLsb' 192 64 = r.a.hi := extract_toWord r 192 64 _ fun i hi => by
    rw [getLsbD_toWord, if_neg (by omega), if_neg (by omega), if_neg (by omega), if_pos (by omega), Nat.add_sub_cancel_left]
  have e3 : r.toWord.extractLsb' 128 64 = r.a.lo := extract_toWord r 128 64 _ fun i hi => by
    rw [getLsbD_toWord, if_neg (by omega), if_neg (by omega), if_pos (by omega), Nat.add_sub_cancel_left]
  have e4 : r.toWord.extractLsb' 64 64 = r.b.hi := extract_toWord r 64 64 _ fun i hi => by
    rw [getLsbD_toWord, if_neg (by omega), if_pos (by omega), Nat.add_sub_cancel_left]
  have e5 : r.toWord.extractLsb' 0 64 = r.b.lo := extract_toWord r 0 64 _ fun i hi => by
    rw [getLsbD_toWord, if_pos (by omega), Nat.zero_add]
  rw [ofWord_eq, e1, e2, e3, e4, e5]

/-- Taking the fields apart, then packing, gives the word back. -/
theorem toWord_ofWord (w : BitVec 261) : (Request.ofWord w).toWord = w := by
  have field : ∀ start len i, i < len → (w.extractLsb' start len).getLsbD i = w.getLsbD (start + i) := fun start len i hi => by
    rw [BitVec.getLsbD_extractLsb', decide_eq_true hi, Bool.true_and]
  apply BitVec.eq_of_getLsbD_eq
  intro i hi
  rw [ofWord_eq, getLsbD_toWord]
  by_cases h1 : i < 64
  · rw [if_pos h1]; show (w.extractLsb' 0 64).getLsbD i = _; rw [field _ _ _ h1, Nat.zero_add]
  rw [if_neg h1]
  by_cases h2 : i < 128
  · rw [if_pos h2]; show (w.extractLsb' 64 64).getLsbD (i - 64) = _
    rw [field _ _ _ (by omega), Nat.add_sub_cancel' (by omega)]
  rw [if_neg h2]
  by_cases h3 : i < 192
  · rw [if_pos h3]; show (w.extractLsb' 128 64).getLsbD (i - 128) = _
    rw [field _ _ _ (by omega), Nat.add_sub_cancel' (by omega)]
  rw [if_neg h3]
  by_cases h4 : i < 256
  · rw [if_pos h4]; show (w.extractLsb' 192 64).getLsbD (i - 192) = _
    rw [field _ _ _ (by omega), Nat.add_sub_cancel' (by omega)]
  rw [if_neg h4]; show (w.extractLsb' 256 5).getLsbD (i - 256) = _
  rw [field _ _ _ (by omega), Nat.add_sub_cancel' (by omega)]

end Sys2Proof
end

