-- ==== Sys2Proof/Laws/State.lean ====
section
/-! SUPPORT. One lemma per field per update of the state, true by unfolding, so that no later proof unfolds an update. -/

namespace Sys2Proof.Machine

@[simp] theorem State.answer_request (s : State) (r : Response) : (s.answer r).request = none := rfl
@[simp] theorem State.answer_response (s : State) (r : Response) : (s.answer r).response = some r := rfl
@[simp] theorem State.answer_host (s : State) (r : Response) : (s.answer r).host = s.host := rfl
@[simp] theorem State.answer_ok_faults (s : State) (o : Outputs) : (s.answer (.ok o)).faults = s.faults := rfl
@[simp] theorem State.answer_fault_faults (s : State) (c : FaultCode) :
    (s.answer (.fault c)).faults = s.faults ++ [c] := rfl

@[simp] theorem State.issue_request (s : State) (r : Request) : (s.issue r).request = some r := rfl
@[simp] theorem State.issue_response (s : State) (r : Request) : (s.issue r).response = none := rfl
@[simp] theorem State.issue_faults (s : State) (r : Request) : (s.issue r).faults = s.faults := rfl
@[simp] theorem State.issue_host (s : State) (r : Request) : (s.issue r).host = s.host := rfl

@[simp] theorem State.applyReset_request (s : State) : s.applyReset.request = none := rfl
@[simp] theorem State.applyReset_response (s : State) : s.applyReset.response = none := rfl
@[simp] theorem State.applyReset_faults (s : State) : s.applyReset.faults = s.faults := rfl
@[simp] theorem State.applyReset_host (s : State) : s.applyReset.host = s.host := rfl

@[simp] theorem State.goTo_request (s : State) (l : Nat) : (s.goTo l).request = s.request := rfl
@[simp] theorem State.goTo_response (s : State) (l : Nat) : (s.goTo l).response = s.response := rfl
@[simp] theorem State.goTo_faults (s : State) (l : Nat) : (s.goTo l).faults = s.faults := rfl
@[simp] theorem State.goTo_program (s : State) (l : Nat) : (s.goTo l).host.program = s.host.program := rfl
@[simp] theorem State.goTo_counter (s : State) (l : Nat) : (s.goTo l).host.counter = l := rfl
@[simp] theorem State.goTo_records (s : State) (l : Nat) : (s.goTo l).host.records = s.host.records := rfl
@[simp] theorem State.goTo_awaiting (s : State) (l : Nat) : (s.goTo l).host.awaiting = s.host.awaiting := rfl
@[simp] theorem State.goTo_status (s : State) (l : Nat) : (s.goTo l).host.status = s.host.status := rfl

@[simp] theorem State.hostCall_request (s : State) (n : Nat) (r : Request) : (s.hostCall n r).request = some r := rfl
@[simp] theorem State.hostCall_response (s : State) (n : Nat) (r : Request) : (s.hostCall n r).response = none := rfl
@[simp] theorem State.hostCall_faults (s : State) (n : Nat) (r : Request) : (s.hostCall n r).faults = s.faults := rfl
@[simp] theorem State.hostCall_program (s : State) (n : Nat) (r : Request) :
    (s.hostCall n r).host.program = s.host.program := rfl
@[simp] theorem State.hostCall_counter (s : State) (n : Nat) (r : Request) :
    (s.hostCall n r).host.counter = s.host.counter := rfl
@[simp] theorem State.hostCall_records (s : State) (n : Nat) (r : Request) :
    (s.hostCall n r).host.records = s.host.records := rfl
@[simp] theorem State.hostCall_awaiting (s : State) (n : Nat) (r : Request) :
    (s.hostCall n r).host.awaiting = some n := rfl
@[simp] theorem State.hostCall_status (s : State) (n : Nat) (r : Request) :
    (s.hostCall n r).host.status = s.host.status := rfl

@[simp] theorem State.keep_request (s : State) (n : Nat) (o : Outputs) : (s.keep n o).request = s.request := rfl
@[simp] theorem State.keep_response (s : State) (n : Nat) (o : Outputs) : (s.keep n o).response = s.response := rfl
@[simp] theorem State.keep_faults (s : State) (n : Nat) (o : Outputs) : (s.keep n o).faults = s.faults := rfl
@[simp] theorem State.keep_program (s : State) (n : Nat) (o : Outputs) :
    (s.keep n o).host.program = s.host.program := rfl
@[simp] theorem State.keep_counter (s : State) (n : Nat) (o : Outputs) :
    (s.keep n o).host.counter = s.host.counter + 1 := rfl
@[simp] theorem State.keep_records (s : State) (n : Nat) (o : Outputs) :
    (s.keep n o).host.records = putRecord n o s.host.records := rfl
@[simp] theorem State.keep_awaiting (s : State) (n : Nat) (o : Outputs) : (s.keep n o).host.awaiting = none := rfl
@[simp] theorem State.keep_status (s : State) (n : Nat) (o : Outputs) :
    (s.keep n o).host.status = s.host.status := rfl

@[simp] theorem State.endProgram_request (s : State) (st : HostStatus) : (s.endProgram st).request = s.request := rfl
@[simp] theorem State.endProgram_response (s : State) (st : HostStatus) :
    (s.endProgram st).response = s.response := rfl
@[simp] theorem State.endProgram_faults (s : State) (st : HostStatus) : (s.endProgram st).faults = s.faults := rfl
@[simp] theorem State.endProgram_program (s : State) (st : HostStatus) :
    (s.endProgram st).host.program = s.host.program := rfl
@[simp] theorem State.endProgram_counter (s : State) (st : HostStatus) :
    (s.endProgram st).host.counter = s.host.counter := rfl
@[simp] theorem State.endProgram_records (s : State) (st : HostStatus) :
    (s.endProgram st).host.records = s.host.records := rfl
@[simp] theorem State.endProgram_awaiting (s : State) (st : HostStatus) :
    (s.endProgram st).host.awaiting = none := rfl
@[simp] theorem State.endProgram_status (s : State) (st : HostStatus) : (s.endProgram st).host.status = st := rfl

/-- Issuing replaces the request and the response, so what stood there before an answer does not matter. -/
theorem State.answer_issue (s : State) (r r' : Request) (x : Response) :
    (s.issue r).answer x = (s.issue r').answer x := rfl

/-- Two states with the same four parts are equal. -/
theorem State.eq_of_fields {s t : State} (h1 : s.request = t.request) (h2 : s.response = t.response)
    (h3 : s.faults = t.faults) (h4 : s.host = t.host) : s = t := by
  cases s; cases t; simp_all

end Sys2Proof.Machine
end

