-- ==== Sys2Proof/Laws/Ops.lean ====
section
/-! SUPPORT. What the shared operations can do: answering, raising, issuing, reading, the records, the host's step. -/

namespace Sys2Proof.Machine

theorem respond_eq (o : Outputs) (s : State) : respond o s = .next (s.answer (.ok o)) := rfl
theorem raiseFault_eq (c : FaultCode) (s : State) : raiseFault c s = .next (s.answer (.fault c)) := rfl

/-- Issuing answers next only when no request was outstanding. -/
theorem hostIssue_next {r : Request} {s t : State} (h : hostIssue r s = .next t) :
    s.request = none ∧ t = s.issue r := by
  unfold hostIssue at h
  split at h
  · next hr => exact ⟨hr, by injection h with h; exact h.symm⟩
  · cases h

/-- A host read gives outputs only when the response is OK, and gives that response's. -/
theorem hostRead_next {s : State} {o : Outputs} (h : hostRead s = .next o) : s.response = some (.ok o) := by
  unfold hostRead at h
  split at h
  · cases h
  · cases h
  · next p hp => injection h with h; rw [hp, h]

/-- A sequence that answers next did so in both parts. -/
theorem andThen_next {α β : Type} {o : Host.Outcome α Fault Refusal} {f : α → Host.Outcome β Fault Refusal} {b : β}
    (h : andThen o f = .next b) : ∃ a, o = .next a ∧ f a = .next b := by
  cases o with
  | next a => exact ⟨a, rfl, h⟩
  | fault r => cases h
  | refused r => cases h

@[simp] theorem andThen_of_next {α β : Type} (a : α) (f : α → Host.Outcome β Fault Refusal) :
    andThen (.next a) f = f a := rfl

theorem getRecord_putRecord_self (n : Nat) (o : Outputs) (l : List (Nat × Outputs)) :
    getRecord n (putRecord n o l) = some o := by
  induction l with
  | nil => simp [putRecord, getRecord]
  | cons x l ih =>
    obtain ⟨m, p⟩ := x
    unfold putRecord
    split
    · simp [getRecord]
    · split
      · simp [getRecord]
      · next h => simp [getRecord, h, ih]

theorem getRecord_putRecord_other {n k : Nat} (h : k ≠ n) (o : Outputs) (l : List (Nat × Outputs)) :
    getRecord k (putRecord n o l) = getRecord k l := by
  induction l with
  | nil => simp [putRecord, getRecord, h]
  | cons x l ih =>
    obtain ⟨m, p⟩ := x
    unfold putRecord
    split
    · simp [getRecord, h]
    · split
      · next h2 => subst h2; simp [getRecord, h]
      · simp [getRecord, ih]

/-- The names of a canonical list with a given first name are above a bound when the first is. -/
theorem recordsWf_cons {m : Nat} {p : Outputs} {l : List (Nat × Outputs)} :
    recordsWf ((m, p) :: l) = true ↔ (∀ x ∈ l.head?, m < x.1) ∧ recordsWf l = true := by
  cases l with
  | nil => simp [recordsWf]
  | cons x l => obtain ⟨n, q⟩ := x; simp [recordsWf]

theorem putRecord_head (n : Nat) (o : Outputs) (l : List (Nat × Outputs)) {b : Nat} (hb : b < n)
    (hl : ∀ x ∈ l.head?, b < x.1) : ∀ x ∈ (putRecord n o l).head?, b < x.1 := by
  cases l with
  | nil => simpa [putRecord] using hb
  | cons x l =>
    obtain ⟨m, p⟩ := x
    have hm : b < m := by simpa using hl
    unfold putRecord
    split
    · simpa using hb
    · split
      · simpa using hb
      · simpa using hm

/-- Keeping a record keeps the canonical form. -/
theorem recordsWf_putRecord (n : Nat) (o : Outputs) (l : List (Nat × Outputs)) (h : recordsWf l = true) :
    recordsWf (putRecord n o l) = true := by
  induction l with
  | nil => rfl
  | cons x l ih =>
    obtain ⟨m, p⟩ := x
    have h' := recordsWf_cons.mp h
    unfold putRecord
    split
    · next hlt => exact recordsWf_cons.mpr ⟨by simpa using hlt, h⟩
    · split
      · next hnm => subst hnm; exact recordsWf_cons.mpr h'
      · next h1 h2 =>
        refine recordsWf_cons.mpr ⟨putRecord_head n o l (by omega) h'.1, ih h'.2⟩

/-- Everything one statement can do when it answers next (30_encoding.md R61). -/
theorem runStatement_next {st : Stmt} {s t : State} (h : runStatement st s = .next t) :
    (∃ dst c r, st = .request dst c ∧ assembleCall s.host.records c = .next r ∧ t = s.hostCall dst r) ∨
    (∃ l, t = s.goTo l ∧ ∀ dst c, st ≠ .request dst c) ∨
    (st = .halt ∧ t = s.endProgram .done) := by
  cases st with
  | request dst c =>
    obtain ⟨r, h1, h2⟩ := andThen_next h
    injection h2 with h2
    exact .inl ⟨dst, c, r, rfl, h1, h2.symm⟩
  | ifEq n f v l =>
    obtain ⟨b, -, h2⟩ := andThen_next h
    injection h2 with h2
    exact .inr (.inl ⟨_, h2.symm, by simp⟩)
  | ifNe n f v l =>
    obtain ⟨b, -, h2⟩ := andThen_next h
    injection h2 with h2
    exact .inr (.inl ⟨_, h2.symm, by simp⟩)
  | goto l =>
    injection h with h2
    exact .inr (.inl ⟨_, h2.symm, by simp⟩)
  | halt =>
    injection h with h2
    exact .inr (.inr ⟨rfl, h2.symm⟩)
  | nop =>
    injection h with h2
    exact .inr (.inl ⟨_, h2.symm, by simp⟩)

/-- Everything the host's step can do when it answers next: receive the awaited response, or run the statement of the
counter. -/
theorem hostStep_next {s t : State} (h : hostStep s = .next t) :
    s.host.status = .running ∧
    ((∃ dst r, s.host.awaiting = some dst ∧ s.response = some r ∧ t = s.receive dst r) ∨
     ((s.host.awaiting = none ∨ s.response = none) ∧
       ∃ st, statementAt s.host.program s.host.counter = some st ∧ st.wf s.host.program.length = true ∧
         runStatement st s = .next t)) := by
  have run : runCounter s = .next t → ∃ st, statementAt s.host.program s.host.counter = some st ∧
      st.wf s.host.program.length = true ∧ runStatement st s = .next t := by
    intro hr
    unfold runCounter at hr
    split at hr
    · cases hr
    · next st hst =>
      split at hr
      · next hw => exact ⟨st, hst, hw, hr⟩
      · cases hr
  unfold hostStep at h
  split at h
  · next hrun =>
    refine ⟨hrun, ?_⟩
    split at h
    · next dst r ha hresp => injection h with h; exact .inl ⟨dst, r, ha, hresp, h.symm⟩
    · next ha hresp => exact .inr ⟨.inr hresp, run h⟩
    · next ha => exact .inr ⟨.inl ha, run h⟩
  all_goals cases h

end Sys2Proof.Machine
end

