-- ==== Sys2Proof/Laws/Exec.lean ====
section
/-! SUPPORT. What each instruction answers, over the shared operations: one equation per instruction, cited instead of
unfolding exec. -/

namespace Sys2Proof.Machine

theorem exec_add (a b : WordPair) (s : State) :
    exec (.add a b) s = .next (s.answer (.ok (.carry (add128 a b).1 (add128 a b).2))) := rfl
theorem exec_add64 (a b : WordPair) (s : State) :
    exec (.add64 a b) s = .next (s.answer (.ok (.carry (add128 a (wordOperand b)).1 (add128 a (wordOperand b)).2))) := rfl
theorem exec_inc (a b : WordPair) (s : State) :
    exec (.inc a b) s = .next (s.answer (.ok (.carry (add128 a ⟨0, 1⟩).1 (add128 a ⟨0, 1⟩).2))) := rfl
theorem exec_sub (a b : WordPair) (s : State) :
    exec (.sub a b) s = .next (s.answer (.ok (.carry (sub128 a b).1 (sub128 a b).2))) := rfl
theorem exec_sub64 (a b : WordPair) (s : State) :
    exec (.sub64 a b) s = .next (s.answer (.ok (.carry (sub128 a (wordOperand b)).1 (sub128 a (wordOperand b)).2))) := rfl
theorem exec_dec (a b : WordPair) (s : State) :
    exec (.dec a b) s = .next (s.answer (.ok (.carry (sub128 a ⟨0, 1⟩).1 (sub128 a ⟨0, 1⟩).2))) := rfl
theorem exec_mul (a b : WordPair) (s : State) :
    exec (.mul a b) s = .next (s.answer (.ok (.value (mul128 a b)))) := rfl
theorem exec_mul64 (a b : WordPair) (s : State) :
    exec (.mul64 a b) s = .next (s.answer (.ok (.value (mul128 a (wordOperand b))))) := rfl
theorem exec_neg (a b : WordPair) (s : State) :
    exec (.neg a b) s = .next (s.answer (.ok (.value (neg128 a)))) := rfl
theorem exec_lsh (a b : WordPair) (s : State) :
    exec (.lsh a b) s = .next (s.answer (.ok (.value (shl128 a (shiftAmount b))))) := rfl
theorem exec_rsh (a b : WordPair) (s : State) :
    exec (.rsh a b) s = .next (s.answer (.ok (.value (shr128 a (shiftAmount b))))) := rfl
theorem exec_rotl (a b : WordPair) (s : State) :
    exec (.rotl a b) s = .next (s.answer (.ok (.value (rotl128 a (rotateAmount b))))) := rfl
theorem exec_cmps (a b : WordPair) (s : State) :
    exec (.cmps a b) s = .next (s.answer (.ok (.value (comparePair (compareSigned a b))))) := rfl
theorem exec_cmpu (a b : WordPair) (s : State) :
    exec (.cmpu a b) s = .next (s.answer (.ok (.value (comparePair (compareUnsigned a b))))) := rfl
theorem exec_cmpu64 (a b : WordPair) (s : State) :
    exec (.cmpu64 a b) s = .next (s.answer (.ok (.value (comparePair (compareWord a b.lo))))) := rfl
theorem exec_cvtf2u (a b : WordPair) (s : State) :
    exec (.cvtf2u a b) s = .next (s.answer (.ok (.conversion (f2u (floatOperand a)).y (f2u (floatOperand a)).ir (f2u (floatOperand a)).ex))) := rfl
theorem exec_cvtu2f (a b : WordPair) (s : State) :
    exec (.cvtu2f a b) s = .next (s.answer (.ok (cvtu2fOutputs Config.u2fRound a))) := rfl
theorem exec_cvti2f (a b : WordPair) (s : State) :
    exec (.cvti2f a b) s = .next (s.answer (.ok (cvti2fOutputs Config.u2fRound a))) := rfl

theorem exec_divu64_zero (a b : WordPair) (s : State) (h : b.lo.toNat = 0) :
    exec (.divu64 a b) s = .next (s.answer (.fault .divZero)) := by
  exact if_pos h

theorem exec_divu64 (a b : WordPair) (s : State) (h : b.lo.toNat ≠ 0) :
    exec (.divu64 a b) s = .next (s.answer
      (.ok (.division (w128 (a.u / b.lo.toNat : Nat)) ⟨0, w64 (a.u % b.lo.toNat : Nat)⟩))) := by
  exact if_neg h

theorem exec_divu_zero (a b : WordPair) (s : State) (h : b.u = 0) :
    exec (.divu a b) s = .next (s.answer (.fault .divZero)) := by
  exact if_pos h

theorem exec_divu (a b : WordPair) (s : State) (h : b.u ≠ 0) :
    exec (.divu a b) s = .next (s.answer
      (.ok (.division (w128 (a.u / b.u : Nat)) (w128 (a.u % b.u : Nat))))) := by
  exact if_neg h

/-- An OK answer written out as a record update. -/
theorem State.answer_ok_eq (s : State) (o : Outputs) :
    s.answer (.ok o) = { s with request := none, response := some (.ok o) } := rfl

/-- A FAULT answer written out as a record update. -/
theorem State.answer_fault_eq (s : State) (c : FaultCode) :
    s.answer (.fault c) =
      { s with request := none, response := some (.fault c), faults := s.faults ++ [c] } := rfl

end Sys2Proof.Machine
end

