-- ==== Sys2Proof/Laws/PerInstr.lean ====
section
/-! SUPPORT. The family of per-instruction lemmas: an instruction's word is its own row's of opcode_table.json
(30_encoding.md R45: `(word AND mask) = match`). -/

namespace Sys2Proof

theorem getLsbD_opcodeMask (i : Nat) : opcodeMask.getLsbD i = (decide (256 ≤ i) && decide (i < 261)) := by
  have h : opcodeMask.getLsbD i = (decide (i < 261) && ((2 ^ 5 - 1) * 2 ^ 256).testBit i) := by
    rw [opcodeMask, BitVec.getLsbD_ofNat, show (0x1F : Nat) = 2 ^ 5 - 1 from rfl]
  rw [h, Nat.testBit_mul_two_pow, Nat.testBit_two_pow_sub_one]
  by_cases h1 : 256 ≤ i <;> by_cases h2 : i < 261 <;> simp [h1, h2]; omega

theorem getLsbD_opcodeMatch (m : Mnemonic) (i : Nat) :
    m.opcodeMatch.getLsbD i = (decide (256 ≤ i) && m.code.getLsbD (i - 256)) := by
  have h : m.opcodeMatch.getLsbD i = (decide (i < 261) && (m.code.toNat * 2 ^ 256).testBit i) := by
    rw [Mnemonic.opcodeMatch, BitVec.getLsbD_ofNat]
  rw [h, Nat.testBit_mul_two_pow, BitVec.testBit_toNat]
  by_cases h1 : 256 ≤ i <;> by_cases h2 : i < 261 <;> simp [h1, h2]
  exact BitVec.getLsbD_of_ge _ _ (by omega)

/-- A packed request matches an operation's row exactly when its operation select is that operation's code. -/
theorem matchesWord_toWord (m : Mnemonic) (r : Request) : m.matchesWord r.toWord = true ↔ r.op = m.code := by
  rw [Mnemonic.matchesWord, decide_eq_true_iff]
  constructor
  · intro h
    apply BitVec.eq_of_getLsbD_eq
    intro i hi
    have h' := congrArg (fun w => BitVec.getLsbD w (256 + i)) h
    simp only [BitVec.getLsbD_and, getLsbD_opcodeMask, getLsbD_opcodeMatch, getLsbD_toWord] at h'
    rw [if_neg (by omega), if_neg (by omega), if_neg (by omega), if_neg (by omega), decide_eq_true (by omega),
      decide_eq_true (by omega), Nat.add_sub_cancel_left] at h'
    simpa using h'
  · intro h
    apply BitVec.eq_of_getLsbD_eq
    intro i hi
    rw [BitVec.getLsbD_and, getLsbD_opcodeMask, getLsbD_opcodeMatch, getLsbD_toWord, decide_eq_true hi, Bool.and_true]
    by_cases h1 : 256 ≤ i
    · rw [if_neg (by omega), if_neg (by omega), if_neg (by omega), if_neg (by omega), h, Bool.and_comm]
    · rw [decide_eq_false h1, Bool.and_false, Bool.false_and]

end Sys2Proof

namespace Sys2Proof.Laws.EncodedRow

/-- The word of an instruction matches the row of its own operation. -/
def Statement (i : Instr) : Prop := i.mnemonic.matchesWord (encodeWord i) = true

theorem add (a b : WordPair) : Statement (.add a b) := (matchesWord_toWord _ _).mpr rfl
theorem add64 (a b : WordPair) : Statement (.add64 a b) := (matchesWord_toWord _ _).mpr rfl
theorem inc (a b : WordPair) : Statement (.inc a b) := (matchesWord_toWord _ _).mpr rfl
theorem sub (a b : WordPair) : Statement (.sub a b) := (matchesWord_toWord _ _).mpr rfl
theorem sub64 (a b : WordPair) : Statement (.sub64 a b) := (matchesWord_toWord _ _).mpr rfl
theorem dec (a b : WordPair) : Statement (.dec a b) := (matchesWord_toWord _ _).mpr rfl
theorem mul (a b : WordPair) : Statement (.mul a b) := (matchesWord_toWord _ _).mpr rfl
theorem mul64 (a b : WordPair) : Statement (.mul64 a b) := (matchesWord_toWord _ _).mpr rfl
theorem divu64 (a b : WordPair) : Statement (.divu64 a b) := (matchesWord_toWord _ _).mpr rfl
theorem divu (a b : WordPair) : Statement (.divu a b) := (matchesWord_toWord _ _).mpr rfl
theorem neg (a b : WordPair) : Statement (.neg a b) := (matchesWord_toWord _ _).mpr rfl
theorem lsh (a b : WordPair) : Statement (.lsh a b) := (matchesWord_toWord _ _).mpr rfl
theorem rsh (a b : WordPair) : Statement (.rsh a b) := (matchesWord_toWord _ _).mpr rfl
theorem rotl (a b : WordPair) : Statement (.rotl a b) := (matchesWord_toWord _ _).mpr rfl
theorem cmps (a b : WordPair) : Statement (.cmps a b) := (matchesWord_toWord _ _).mpr rfl
theorem cmpu (a b : WordPair) : Statement (.cmpu a b) := (matchesWord_toWord _ _).mpr rfl
theorem cmpu64 (a b : WordPair) : Statement (.cmpu64 a b) := (matchesWord_toWord _ _).mpr rfl
theorem cvtf2u (a b : WordPair) : Statement (.cvtf2u a b) := (matchesWord_toWord _ _).mpr rfl
theorem cvtu2f (a b : WordPair) : Statement (.cvtu2f a b) := (matchesWord_toWord _ _).mpr rfl
theorem cvti2f (a b : WordPair) : Statement (.cvti2f a b) := (matchesWord_toWord _ _).mpr rfl

end Sys2Proof.Laws.EncodedRow
end

