-- ==== Sys2Proof/Laws/Units.lean ====
section
/-! SUPPORT. One law per shared arithmetic operation, saying what it computes on the unsigned readings. -/

namespace Sys2Proof.Machine

/-- R63: the carry chain gives the sum modulo 2^128 and the exact carry. -/
theorem add128_law (a b : WordPair) :
    (add128 a b).1.u = (a.u + b.u) % 2 ^ 128 ∧ (add128 a b).2 = decide (2 ^ 128 ≤ a.u + b.u) := by
  have h1 := a.hi.isLt
  have h2 := a.lo.isLt
  have h3 := b.hi.isLt
  have h4 := b.lo.isLt
  have e := toNat_w64_nat
  simp only [add128]
  refine ⟨?_, ?_⟩
  · rw [u_mk, toNat_w64_nat, toNat_w64_nat]
    simp only [WordPair.u]
    split <;> omega
  · rw [decide_eq_decide]
    simp only [WordPair.u]
    split <;> omega

/-- R68: the borrow chain gives the difference modulo 2^128 and the exact borrow. -/
theorem sub128_law (a b : WordPair) :
    ((sub128 a b).1.u : Int) = ((a.u : Int) - b.u) % 2 ^ 128 ∧ (sub128 a b).2 = decide (a.u < b.u) := by
  have h1 := a.hi.isLt
  have h2 := a.lo.isLt
  have h3 := b.hi.isLt
  have h4 := b.lo.isLt
  simp only [sub128]
  refine ⟨?_, ?_⟩
  · rw [u_mk]
    push_cast
    rw [toNat_w64, toNat_w64]
    simp only [WordPair.u]
    split <;> omega
  · rw [decide_eq_decide]
    simp only [WordPair.u]
    split <;> omega

/-- R73: the partial products give the product modulo 2^128. -/
theorem mul128_law (a b : WordPair) : (mul128 a b).u = a.u * b.u % 2 ^ 128 := by
  have e : (mul128 a b).u =
      (a.lo.toNat * b.lo.toNat / 2 ^ 64 + a.hi.toNat * b.lo.toNat + a.lo.toNat * b.hi.toNat) % 2 ^ 64 * 2 ^ 64 +
        a.lo.toNat * b.lo.toNat % 2 ^ 64 % 2 ^ 64 := by
    simp only [mul128]
    rw [u_mk, toNat_w64_nat, toNat_w64_nat]
  have h : a.u * b.u = a.hi.toNat * b.hi.toNat * 2 ^ 128 +
      (a.hi.toNat * b.lo.toNat + a.lo.toNat * b.hi.toNat) * 2 ^ 64 + a.lo.toNat * b.lo.toNat := by
    simp only [WordPair.u]
    ring
  rw [e, h]
  generalize a.lo.toNat * b.lo.toNat = l
  generalize a.hi.toNat * b.lo.toNat = m1
  generalize a.lo.toNat * b.hi.toNat = m2
  generalize a.hi.toNat * b.hi.toNat = c
  omega

/-- R85: both branches give the two's-complement negation. -/
theorem neg128_law (a : WordPair) : (neg128 a).u = (2 ^ 128 - a.u) % 2 ^ 128 := by
  have := a.u_lt
  unfold neg128
  split
  · next h => subst h; decide
  · rw [u_w128_nat, a.complement_u]; omega

/-- R88: the left shift, for every amount. -/
theorem shl128_law (a : WordPair) (n : Nat) : (shl128 a n).u = a.u * 2 ^ n % 2 ^ 128 := by
  unfold shl128
  split
  · next h =>
    obtain ⟨k, rfl⟩ := Nat.exists_eq_add_of_le h
    rw [zeroPair_u, pow_add, ← mul_assoc, mul_comm a.u, mul_assoc, Nat.mul_mod_right]
  · rw [u_w128_nat]

/-- R89: the right shift, for every amount. -/
theorem shr128_law (a : WordPair) (n : Nat) : (shr128 a n).u = a.u / 2 ^ n := by
  unfold shr128
  split
  · next h =>
    rw [zeroPair_u, Nat.div_eq_of_lt]
    exact lt_of_lt_of_le a.u_lt (Nat.pow_le_pow_right (by norm_num) h)
  · exact u_w128_of_lt (lt_of_le_of_lt (Nat.div_le_self _ _) a.u_lt)

/-- R90: the rotation, with `r = k mod 128`. -/
theorem rotl128_law (a : WordPair) (k : Int) :
    (rotl128 a k).u = (a.u * 2 ^ (k % 128).toNat) % 2 ^ 128 + a.u / 2 ^ (128 - (k % 128).toNat) := by
  have hr : (k % 128).toNat < 128 := by omega
  have ha := a.u_lt
  simp only [rotl128]
  generalize (k % 128).toNat = r at *
  split
  · next h => subst h; rw [pow_zero, mul_one, Nat.sub_zero, Nat.mod_eq_of_lt ha, Nat.div_eq_of_lt ha, add_zero]
  · next h =>
    rw [u_w128_nat]
    have h1 : a.u / 2 ^ (128 - r) < 2 ^ r := by
      rw [Nat.div_lt_iff_lt_mul (by positivity), ← pow_add]
      rwa [show r + (128 - r) = 128 by omega]
    have h2 : 2 ^ r ∣ a.u * 2 ^ r % 2 ^ 128 :=
      (Nat.dvd_mod_iff (pow_dvd_pow 2 (by omega))).mpr (dvd_mul_left _ _)
    have h3 : a.u * 2 ^ r % 2 ^ 128 < 2 ^ 128 := Nat.mod_lt _ (by norm_num)
    obtain ⟨c, hc⟩ := h2
    have h4 : (2 : Nat) ^ 128 = 2 ^ r * 2 ^ (128 - r) := by rw [← pow_add]; congr 1; omega
    have h5 : c < 2 ^ (128 - r) := by
      have h6 : 2 ^ r * c < 2 ^ r * 2 ^ (128 - r) := by rw [← hc, ← h4]; exact h3
      exact lt_of_mul_lt_mul_left h6 (Nat.zero_le _)
    have h7 : 2 ^ r * c + a.u / 2 ^ (128 - r) < 2 ^ 128 := by
      calc 2 ^ r * c + a.u / 2 ^ (128 - r) < 2 ^ r * c + 2 ^ r := by omega
        _ = 2 ^ r * (c + 1) := by ring
        _ ≤ 2 ^ r * 2 ^ (128 - r) := Nat.mul_le_mul_left _ h5
        _ = 2 ^ 128 := h4.symm
    rw [Nat.add_mod, hc, Nat.mod_eq_of_lt (a := a.u / 2 ^ (128 - r)) (lt_of_le_of_lt (Nat.div_le_self _ _) ha),
      Nat.mod_eq_of_lt h7]

/-- R92: the three-way result as an integer. -/
theorem comparePair_law (o : Ordering) :
    comparePair o = w128 (match o with | .lt => -1 | .eq => 0 | .gt => 1) := by
  cases o <;> decide

/-- R94: hi first, then lo, is the unsigned order. -/
theorem compareUnsigned_law (a b : WordPair) : compareUnsigned a b = compare a.u b.u := by
  have h1 := a.lo.isLt
  have h2 := b.lo.isLt
  unfold compareUnsigned
  simp only [WordPair.u]
  repeat' split
  all_goals first
    | (symm; rw [Nat.compare_eq_lt]; omega)
    | (symm; rw [Nat.compare_eq_gt]; omega)
    | (symm; rw [Nat.compare_eq_eq]; omega)

/-- R93: the sign bit, then the unsigned order, is the signed order. -/
theorem compareSigned_law (a b : WordPair) : compareSigned a b = compare a.s b.s := by
  have ha := a.u_lt
  have hb := b.u_lt
  unfold compareSigned
  rcases a.s_cases with ⟨h1, h2, h3⟩ | ⟨h1, h2, h3⟩ <;> rcases b.s_cases with ⟨g1, g2, g3⟩ | ⟨g1, g2, g3⟩ <;>
    rw [h1, g1, h3, g3] <;> simp only [ne_eq, not_true_eq_false, ↓reduceIte, reduceCtorEq, not_false_eq_true] <;>
    repeat' split
  all_goals first
    | (symm; rw [compare_lt_iff_lt]; omega)
    | (symm; rw [compare_gt_iff_gt]; omega)
    | (symm; rw [compare_eq_iff_eq]; omega)

/-- R95: the comparison with a word is the unsigned comparison with the zero-extended word. -/
theorem compareWord_law (a : WordPair) (w : Word) : compareWord a w = compare a.u w.toNat := by
  have h1 := a.lo.isLt
  have h2 := w.isLt
  have h3 : a.hi ≠ 0 ↔ 0 < a.hi.toNat := by
    rw [Nat.pos_iff_ne_zero, ne_eq, ne_eq, not_iff_not]
    exact ⟨fun h => by simp [h], fun h => BitVec.eq_of_toNat_eq (by simpa using h)⟩
  unfold compareWord
  simp only [h3, WordPair.u]
  repeat' split
  all_goals first
    | (symm; rw [Nat.compare_eq_lt]; omega)
    | (symm; rw [Nat.compare_eq_gt]; omega)
    | (symm; rw [Nat.compare_eq_eq]; omega)

end Sys2Proof.Machine
end

