-- ==== Sys2Proof/Tests/Slice0.lean ====
section
/-! SUPPORT. The model's own tests. Expected values come from 95_test_vectors.md (V and W numbers), from the encoding
tables of 30_encoding.md written out by hand, and from 93_implementation_defined.md. At the end, for every statement with hypotheses, a
state and operands that meet them. -/

namespace Sys2Proof.Tests

open Sys2Proof.Machine

/-- The response an instruction gives from the reset state. -/
def responseOf (i : Instr) : Option Response :=
  match exec i State.reset with
  | .next t => t.response
  | .fault _ => none
  | .refused _ => none

/-- The state after one step, if there is one. -/
def after (s : State) : Option State :=
  match step s with
  | .next t => some t
  | .fault _ => none
  | .refused _ => none

theorem next_of_after {s t : State} (h : after s = some t) : step s = .next t := by
  unfold after at h
  split at h
  · next heq => rw [heq]; injection h with h; rw [h]
  · cases h
  · cases h

/-- The host at a statement of a program, with one record kept. -/
def hostAt (p : List Stmt) (n : Nat) (y : WordPair) : State :=
  { State.reset with host := { State.reset.host with
    program := p, counter := n, records := [(8, presetRecord y)], status := .running } }

/-! ### Well-formedness: an ill-formed term for each check -/

theorem test_wf_hex_too_long : Literal.wf (.hex (2 ^ 64)) = false := by decide
theorem test_wf_f64_not_representable : Literal.wf (.f64 ⟨false, 1, -1⟩) = false := by decide
theorem test_wf_f64_outside_cvtf2u :
    Call.wf (.op .inc (.lit (.f64 ⟨false, 1, 0⟩)) none) = false := by decide
theorem test_wf_missing_operand : Call.wf (.op .add (.lit .zero) none) = false := by decide
theorem test_wf_extra_operand : Call.wf (.op .neg (.lit .zero) (some (.lit .zero))) = false := by decide
theorem test_wf_ill_operand_of_raw : Call.wf (.raw 3 (.lit (.hex (2 ^ 64))) (.lit .zero)) = false := by decide
theorem test_wf_ill_operand_of_pseudo : Call.wf (.pseudo .quo (.lit .zero) (.lit (.f64 ⟨false, 1, 0⟩))) = false := by
  decide
theorem test_wf_target_zero : Stmt.wf 3 (.goto 0) = false := by decide
theorem test_wf_target_past_end : Stmt.wf 3 (.ifEq 1 .y .zero 4) = false := by decide
theorem test_wf_ill_literal_in_test : Stmt.wf 3 (.ifNe 1 .y (.hex (2 ^ 64)) 1) = false := by decide
theorem test_wf_program : wfProgram [.goto 3, .halt] = false := by decide
theorem test_wf_not_assembled : Instr.assembled (.inc ⟨0, 1⟩ ⟨0, 1⟩) = false := by decide
theorem test_wf_not_assembled_word : Instr.assembled (.add64 ⟨0, 1⟩ ⟨1, 1⟩) = false := by decide

/-! ### Decoding: every operation's word, written out from R45 and R46 -/

theorem test_decode_add :
    decodeTableWord 264 0x0000000000000010018000000000000001F0000000000000010000000000002001 =
      some (.add ⟨0x1001, 0x8000000000000001⟩ ⟨0xF000000000000001, 0x2001⟩) := by decide
theorem test_decode_add64 :
    decodeTableWord 264 0x0100000000000010028000000000000002F0000000000000020000000000002002 =
      some (.add64 ⟨0x1002, 0x8000000000000002⟩ ⟨0xF000000000000002, 0x2002⟩) := by decide
theorem test_decode_inc :
    decodeTableWord 264 0x0200000000000010038000000000000003F0000000000000030000000000002003 =
      some (.inc ⟨0x1003, 0x8000000000000003⟩ ⟨0xF000000000000003, 0x2003⟩) := by decide
theorem test_decode_sub :
    decodeTableWord 264 0x0400000000000010048000000000000004F0000000000000040000000000002004 =
      some (.sub ⟨0x1004, 0x8000000000000004⟩ ⟨0xF000000000000004, 0x2004⟩) := by decide
theorem test_decode_sub64 :
    decodeTableWord 264 0x0500000000000010058000000000000005F0000000000000050000000000002005 =
      some (.sub64 ⟨0x1005, 0x8000000000000005⟩ ⟨0xF000000000000005, 0x2005⟩) := by decide
theorem test_decode_dec :
    decodeTableWord 264 0x0600000000000010068000000000000006F0000000000000060000000000002006 =
      some (.dec ⟨0x1006, 0x8000000000000006⟩ ⟨0xF000000000000006, 0x2006⟩) := by decide
theorem test_decode_mul :
    decodeTableWord 264 0x0800000000000010078000000000000007F0000000000000070000000000002007 =
      some (.mul ⟨0x1007, 0x8000000000000007⟩ ⟨0xF000000000000007, 0x2007⟩) := by decide
theorem test_decode_mul64 :
    decodeTableWord 264 0x0900000000000010088000000000000008F0000000000000080000000000002008 =
      some (.mul64 ⟨0x1008, 0x8000000000000008⟩ ⟨0xF000000000000008, 0x2008⟩) := by decide
theorem test_decode_divu64 :
    decodeTableWord 264 0x0C00000000000010098000000000000009F0000000000000090000000000002009 =
      some (.divu64 ⟨0x1009, 0x8000000000000009⟩ ⟨0xF000000000000009, 0x2009⟩) := by decide
theorem test_decode_divu :
    decodeTableWord 264 0x0D000000000000100A800000000000000AF00000000000000A000000000000200A =
      some (.divu ⟨0x100A, 0x800000000000000A⟩ ⟨0xF00000000000000A, 0x200A⟩) := by decide
theorem test_decode_neg :
    decodeTableWord 264 0x10000000000000100B800000000000000BF00000000000000B000000000000200B =
      some (.neg ⟨0x100B, 0x800000000000000B⟩ ⟨0xF00000000000000B, 0x200B⟩) := by decide
theorem test_decode_lsh :
    decodeTableWord 264 0x14000000000000100C800000000000000CF00000000000000C000000000000200C =
      some (.lsh ⟨0x100C, 0x800000000000000C⟩ ⟨0xF00000000000000C, 0x200C⟩) := by decide
theorem test_decode_rsh :
    decodeTableWord 264 0x15000000000000100D800000000000000DF00000000000000D000000000000200D =
      some (.rsh ⟨0x100D, 0x800000000000000D⟩ ⟨0xF00000000000000D, 0x200D⟩) := by decide
theorem test_decode_rotl :
    decodeTableWord 264 0x16000000000000100E800000000000000EF00000000000000E000000000000200E =
      some (.rotl ⟨0x100E, 0x800000000000000E⟩ ⟨0xF00000000000000E, 0x200E⟩) := by decide
theorem test_decode_cmps :
    decodeTableWord 264 0x18000000000000100F800000000000000FF00000000000000F000000000000200F =
      some (.cmps ⟨0x100F, 0x800000000000000F⟩ ⟨0xF00000000000000F, 0x200F⟩) := by decide
theorem test_decode_cmpu :
    decodeTableWord 264 0x1900000000000010108000000000000010F0000000000000100000000000002010 =
      some (.cmpu ⟨0x1010, 0x8000000000000010⟩ ⟨0xF000000000000010, 0x2010⟩) := by decide
theorem test_decode_cmpu64 :
    decodeTableWord 264 0x1A00000000000010118000000000000011F0000000000000110000000000002011 =
      some (.cmpu64 ⟨0x1011, 0x8000000000000011⟩ ⟨0xF000000000000011, 0x2011⟩) := by decide
theorem test_decode_cvtf2u :
    decodeTableWord 264 0x1C00000000000010128000000000000012F0000000000000120000000000002012 =
      some (.cvtf2u ⟨0x1012, 0x8000000000000012⟩ ⟨0xF000000000000012, 0x2012⟩) := by decide
theorem test_decode_cvtu2f :
    decodeTableWord 264 0x1D00000000000010138000000000000013F0000000000000130000000000002013 =
      some (.cvtu2f ⟨0x1013, 0x8000000000000013⟩ ⟨0xF000000000000013, 0x2013⟩) := by decide
theorem test_decode_cvti2f :
    decodeTableWord 264 0x1E00000000000010148000000000000014F0000000000000140000000000002014 =
      some (.cvti2f ⟨0x1014, 0x8000000000000014⟩ ⟨0xF000000000000014, 0x2014⟩) := by decide

theorem test_decode_reserved_codes : reservedCodes.all (fun c => mnemonicOfCode c = none) = true := by decide
/-- The fields of an encoded word in binary places: OP = 0b10110 (ROTL), B.lo = 4. -/
theorem test_encode_rotl :
    encodeWord (.rotl ⟨0, 0x123456789ABCDEF0⟩ ⟨0, 4⟩) = BitVec.ofNat 261 (0b10110 * 2 ^ 256 + 0x123456789ABCDEF0 * 2 ^ 128 + 4) := by
  decide

/-! ### One step of each instruction (95_test_vectors.md Part 2) -/

/-- V1 -/
theorem test_add_carries_lo_to_hi :
    responseOf (.add ⟨0x0, 0xFFFFFFFFFFFFFFFF⟩ ⟨0x0, 0x1⟩) =
      some (.ok ⟨⟨0x1, 0x0⟩, ⟨0x0, 0x0⟩, false, false, false⟩) := by decide

/-- V2 -/
theorem test_add_carry_out :
    responseOf (.add ⟨0xFFFFFFFFFFFFFFFF, 0xFFFFFFFFFFFFFFFF⟩ ⟨0x0, 0x1⟩) =
      some (.ok ⟨⟨0x0, 0x0⟩, ⟨0x0, 0x0⟩, true, false, false⟩) := by decide

/-- V9 -/
theorem test_add64_carry_out :
    responseOf (.add64 ⟨0xFFFFFFFFFFFFFFFF, 0xFFFFFFFFFFFFFFFF⟩ ⟨0x0, 0x1⟩) =
      some (.ok ⟨⟨0x0, 0x0⟩, ⟨0x0, 0x0⟩, true, false, false⟩) := by decide

/-- V10 -/
theorem test_add64_ignores_b_hi :
    responseOf (.add64 ⟨0x5, 0x5⟩ ⟨0xDEAD, 0x3⟩) =
      some (.ok ⟨⟨0x5, 0x8⟩, ⟨0x0, 0x0⟩, false, false, false⟩) := by decide

/-- V11 -/
theorem test_inc_wraps :
    responseOf (.inc ⟨0xFFFFFFFFFFFFFFFF, 0xFFFFFFFFFFFFFFFF⟩ ⟨0x0, 0x0⟩) =
      some (.ok ⟨⟨0x0, 0x0⟩, ⟨0x0, 0x0⟩, true, false, false⟩) := by decide

/-- V12 -/
theorem test_inc_carries_lo_to_hi :
    responseOf (.inc ⟨0x0, 0xFFFFFFFFFFFFFFFF⟩ ⟨0x0, 0x0⟩) =
      some (.ok ⟨⟨0x1, 0x0⟩, ⟨0x0, 0x0⟩, false, false, false⟩) := by decide

/-- V15 -/
theorem test_sub_borrows_lo_to_hi :
    responseOf (.sub ⟨0x1, 0x0⟩ ⟨0x0, 0x1⟩) =
      some (.ok ⟨⟨0x0, 0xFFFFFFFFFFFFFFFF⟩, ⟨0x0, 0x0⟩, false, false, false⟩) := by decide

/-- V16 -/
theorem test_sub_borrow_out :
    responseOf (.sub ⟨0x0, 0x0⟩ ⟨0x0, 0x1⟩) =
      some (.ok ⟨⟨0xFFFFFFFFFFFFFFFF, 0xFFFFFFFFFFFFFFFF⟩, ⟨0x0, 0x0⟩, true, false, false⟩) := by decide

/-- V20 -/
theorem test_sub64_borrows :
    responseOf (.sub64 ⟨0x2, 0x1⟩ ⟨0x0, 0x2⟩) =
      some (.ok ⟨⟨0x1, 0xFFFFFFFFFFFFFFFF⟩, ⟨0x0, 0x0⟩, false, false, false⟩) := by decide

/-- V23 -/
theorem test_sub64_ignores_b_hi :
    responseOf (.sub64 ⟨0x0, 0x5⟩ ⟨0xFFFF, 0x5⟩) =
      some (.ok ⟨⟨0x0, 0x0⟩, ⟨0x0, 0x0⟩, false, false, false⟩) := by decide

/-- V24 -/
theorem test_dec_borrow_out :
    responseOf (.dec ⟨0x0, 0x0⟩ ⟨0x0, 0x0⟩) =
      some (.ok ⟨⟨0xFFFFFFFFFFFFFFFF, 0xFFFFFFFFFFFFFFFF⟩, ⟨0x0, 0x0⟩, true, false, false⟩) := by decide

/-- V25 -/
theorem test_dec_borrows :
    responseOf (.dec ⟨0x1, 0x0⟩ ⟨0x0, 0x0⟩) =
      some (.ok ⟨⟨0x0, 0xFFFFFFFFFFFFFFFF⟩, ⟨0x0, 0x0⟩, false, false, false⟩) := by decide

/-- V28 -/
theorem test_mul_wraps :
    responseOf (.mul ⟨0xFFFFFFFFFFFFFFFF, 0xFFFFFFFFFFFFFFFF⟩ ⟨0xFFFFFFFFFFFFFFFF, 0xFFFFFFFFFFFFFFFF⟩) =
      some (.ok ⟨⟨0x0, 0x1⟩, ⟨0x0, 0x0⟩, false, false, false⟩) := by decide

/-- V29 -/
theorem test_mul_full_low_product :
    responseOf (.mul ⟨0x0, 0xFFFFFFFFFFFFFFFF⟩ ⟨0x0, 0xFFFFFFFFFFFFFFFF⟩) =
      some (.ok ⟨⟨0xFFFFFFFFFFFFFFFE, 0x1⟩, ⟨0x0, 0x0⟩, false, false, false⟩) := by decide

/-- V37 -/
theorem test_mul64_full_product :
    responseOf (.mul64 ⟨0x0, 0xFFFFFFFFFFFFFFFF⟩ ⟨0x0, 0xFFFFFFFFFFFFFFFF⟩) =
      some (.ok ⟨⟨0xFFFFFFFFFFFFFFFE, 0x1⟩, ⟨0x0, 0x0⟩, false, false, false⟩) := by decide

/-- V38 -/
theorem test_mul64_ignores_b_hi :
    responseOf (.mul64 ⟨0x9, 0x9⟩ ⟨0xFFFF, 0x0⟩) =
      some (.ok ⟨⟨0x0, 0x0⟩, ⟨0x0, 0x0⟩, false, false, false⟩) := by decide

/-- V45 -/
theorem test_divu64_wide_quotient :
    responseOf (.divu64 ⟨0xFFFFFFFFFFFFFFFF, 0xFFFFFFFFFFFFFFFF⟩ ⟨0x0, 0x8000000000000000⟩) =
      some (.ok ⟨⟨0x1, 0xFFFFFFFFFFFFFFFF⟩, ⟨0x0, 0x7FFFFFFFFFFFFFFF⟩, false, false, false⟩) := by decide

/-- V47 -/
theorem test_divu64_zero_word_faults :
    responseOf (.divu64 ⟨0x0, 0x5⟩ ⟨0x1, 0x0⟩) =
      some (.fault .divZero) := by decide

/-- V51 -/
theorem test_divu_top_bit_divisor :
    responseOf (.divu ⟨0xFFFFFFFFFFFFFFFF, 0xFFFFFFFFFFFFFFFF⟩ ⟨0x8000000000000000, 0x0⟩) =
      some (.ok ⟨⟨0x0, 0x1⟩, ⟨0x7FFFFFFFFFFFFFFF, 0xFFFFFFFFFFFFFFFF⟩, false, false, false⟩) := by decide

/-- V56 -/
theorem test_divu_by_zero_faults :
    responseOf (.divu ⟨0xFFFFFFFFFFFFFFFF, 0xFFFFFFFFFFFFFFFF⟩ ⟨0x0, 0x0⟩) =
      some (.fault .divZero) := by decide

/-- V58 -/
theorem test_neg_min_is_fixed :
    responseOf (.neg ⟨0x8000000000000000, 0x0⟩ ⟨0x0, 0x0⟩) =
      some (.ok ⟨⟨0x8000000000000000, 0x0⟩, ⟨0x0, 0x0⟩, false, false, false⟩) := by decide

/-- V62 -/
theorem test_neg_borrows_across :
    responseOf (.neg ⟨0x1, 0x0⟩ ⟨0x0, 0x0⟩) =
      some (.ok ⟨⟨0xFFFFFFFFFFFFFFFF, 0x0⟩, ⟨0x0, 0x0⟩, false, false, false⟩) := by decide

/-- V71 -/
theorem test_lsh_crosses_words :
    responseOf (.lsh ⟨0x0, 0x8000000000000001⟩ ⟨0x0, 0x1⟩) =
      some (.ok ⟨⟨0x1, 0x2⟩, ⟨0x0, 0x0⟩, false, false, false⟩) := by decide

/-- V70 -/
theorem test_lsh_huge_amount :
    responseOf (.lsh ⟨0xFFFFFFFFFFFFFFFF, 0xFFFFFFFFFFFFFFFF⟩ ⟨0x0, 0xFFFFFFFFFFFFFFFF⟩) =
      some (.ok ⟨⟨0x0, 0x0⟩, ⟨0x0, 0x0⟩, false, false, false⟩) := by decide

/-- V75 -/
theorem test_rsh_zero_fills :
    responseOf (.rsh ⟨0xFFFFFFFFFFFFFFFF, 0xFFFFFFFFFFFFFFFF⟩ ⟨0x0, 0x1⟩) =
      some (.ok ⟨⟨0x7FFFFFFFFFFFFFFF, 0xFFFFFFFFFFFFFFFF⟩, ⟨0x0, 0x0⟩, false, false, false⟩) := by decide

/-- V78 -/
theorem test_rsh_past_a_word :
    responseOf (.rsh ⟨0xFFFFFFFFFFFFFFFF, 0xFFFFFFFFFFFFFFFF⟩ ⟨0x0, 0x64⟩) =
      some (.ok ⟨⟨0x0, 0xFFFFFFF⟩, ⟨0x0, 0x0⟩, false, false, false⟩) := by decide

/-- V80 -/
theorem test_rotl_negative_amount :
    responseOf (.rotl ⟨0x1, 0x23456789ABCDEF00⟩ ⟨0x0, 0xFFFFFFFFFFFFFFFC⟩) =
      some (.ok ⟨⟨0x0, 0x123456789ABCDEF0⟩, ⟨0x0, 0x0⟩, false, false, false⟩) := by decide

/-- V79 -/
theorem test_rotl_crosses_words :
    responseOf (.rotl ⟨0x0, 0x123456789ABCDEF0⟩ ⟨0x0, 0x4⟩) =
      some (.ok ⟨⟨0x1, 0x23456789ABCDEF00⟩, ⟨0x0, 0x0⟩, false, false, false⟩) := by decide

/-- V88 -/
theorem test_cmps_signs_differ :
    responseOf (.cmps ⟨0x8000000000000000, 0x0⟩ ⟨0x7FFFFFFFFFFFFFFF, 0xFFFFFFFFFFFFFFFF⟩) =
      some (.ok ⟨⟨0xFFFFFFFFFFFFFFFF, 0xFFFFFFFFFFFFFFFF⟩, ⟨0x0, 0x0⟩, false, false, false⟩) := by decide

/-- V92 -/
theorem test_cmps_both_negative :
    responseOf (.cmps ⟨0xFFFFFFFFFFFFFFFF, 0xFFFFFFFFFFFFFFFF⟩ ⟨0xFFFFFFFFFFFFFFFF, 0xFFFFFFFFFFFFFFFE⟩) =
      some (.ok ⟨⟨0x0, 0x1⟩, ⟨0x0, 0x0⟩, false, false, false⟩) := by decide

/-- V96 -/
theorem test_cmpu_reads_unsigned :
    responseOf (.cmpu ⟨0x8000000000000000, 0x0⟩ ⟨0x7FFFFFFFFFFFFFFF, 0xFFFFFFFFFFFFFFFF⟩) =
      some (.ok ⟨⟨0x0, 0x1⟩, ⟨0x0, 0x0⟩, false, false, false⟩) := by decide

/-- V98 -/
theorem test_cmpu_less :
    responseOf (.cmpu ⟨0x0, 0x2⟩ ⟨0x0, 0x3⟩) =
      some (.ok ⟨⟨0xFFFFFFFFFFFFFFFF, 0xFFFFFFFFFFFFFFFF⟩, ⟨0x0, 0x0⟩, false, false, false⟩) := by decide

/-- V99 -/
theorem test_cmpu64_hi_decides :
    responseOf (.cmpu64 ⟨0x1, 0x0⟩ ⟨0x0, 0xFFFFFFFFFFFFFFFF⟩) =
      some (.ok ⟨⟨0x0, 0x1⟩, ⟨0x0, 0x0⟩, false, false, false⟩) := by decide

/-- V103 -/
theorem test_cmpu64_ignores_b_hi :
    responseOf (.cmpu64 ⟨0x0, 0x5⟩ ⟨0x7, 0x5⟩) =
      some (.ok ⟨⟨0x0, 0x0⟩, ⟨0x0, 0x0⟩, false, false, false⟩) := by decide

/-- V112 -/
theorem test_cvtf2u_largest_in_range :
    responseOf (.cvtf2u ⟨0x0, 0x47EFFFFFFFFFFFFF⟩ ⟨0x0, 0x0⟩) =
      some (.ok ⟨⟨0xFFFFFFFFFFFFF800, 0x0⟩, ⟨0x0, 0x0⟩, false, true, true⟩) := by decide

/-- V119 -/
theorem test_cvtf2u_truncates :
    responseOf (.cvtf2u ⟨0x0, 0x4320000000000001⟩ ⟨0x0, 0x0⟩) =
      some (.ok ⟨⟨0x0, 0x8000000000000⟩, ⟨0x0, 0x0⟩, false, true, false⟩) := by decide

/-- V127 -/
theorem test_cvtu2f_tie_to_even_up :
    responseOf (.cvtu2f ⟨0x0, 0x20000000000003⟩ ⟨0x0, 0x0⟩) =
      some (.ok ⟨⟨0x0, 0x4340000000000002⟩, ⟨0x0, 0x0⟩, false, true, false⟩) := by decide

/-- V130 -/
theorem test_cvtu2f_rounds_once :
    responseOf (.cvtu2f ⟨0x1, 0x8000000000000801⟩ ⟨0x0, 0x0⟩) =
      some (.ok ⟨⟨0x0, 0x43F8000000000001⟩, ⟨0x0, 0x0⟩, false, true, false⟩) := by decide

/-- V136 -/
theorem test_cvti2f_min :
    responseOf (.cvti2f ⟨0x8000000000000000, 0x0⟩ ⟨0x0, 0x0⟩) =
      some (.ok ⟨⟨0x0, 0xC7E0000000000000⟩, ⟨0x0, 0x0⟩, false, true, true⟩) := by decide

/-- V138 -/
theorem test_cvti2f_tie_of_negative :
    responseOf (.cvti2f ⟨0xFFFFFFFFFFFFFFFF, 0xFFDFFFFFFFFFFFFF⟩ ⟨0x0, 0x0⟩) =
      some (.ok ⟨⟨0x0, 0xC340000000000000⟩, ⟨0x0, 0x0⟩, false, true, false⟩) := by decide

/-- V152: a reserved code, and the fault kept in the host's record of the run. -/
theorem test_reserved_code_faults :
    after (State.reset.issue ⟨0x1F, maxUint128, maxUint128⟩) =
      some { State.reset with response := some (.fault .illegalOp), faults := [.illegalOp] } := by decide
/-- A table word placed as the next instruction is run by the very next step (V12). -/
theorem test_withFetchWord_runs :
    ((after (State.reset.withFetchWord 264 0x020000000000000000FFFFFFFFFFFFFFFF00000000000000000000000000000000)).bind State.response) =
      some (.ok ⟨⟨1, 0⟩, ⟨0, 0⟩, false, false, false⟩) := by decide

/-! ### The host (30_encoding.md R58 to R62) -/

/-- P6a, statement 1: the request is issued and awaited. -/
theorem test_host_issues :
    (after (hostAt [.request 1 (.op .sub (.record 8 .y) (some (.record 8 .y))), .halt] 1 ⟨0, 5⟩)).bind State.request =
      some ⟨0x04, ⟨0, 5⟩, ⟨0, 5⟩⟩ := by decide
/-- A record that was never written reads as nothing: a fault. -/
theorem test_host_reads_missing_record :
    step (hostAt [.request 1 (.op .inc (.record 9 .y) none)] 1 ⟨0, 5⟩) = .fault .noResponseToRead := by rfl
theorem test_host_falls_off : step (hostAt [.nop] 2 ⟨0, 5⟩) = .refused .noStatement := by rfl
theorem test_host_ill_formed : step (hostAt [.goto 7] 1 ⟨0, 5⟩) = .refused .illFormedStatement := by rfl
/-- R58, R59: a negative decimal as a 64-bit operand (W9: -13). -/
theorem test_assemble_negative_amount :
    assembleCall [] (.op .rotl (.lit .zero) (some (.lit (.dec (-13))))) = .next ⟨0x16, zeroPair, ⟨0, 0xFFFFFFFFFFFFFFF3⟩⟩ := by
  rfl
/-- R59: `f64(1.0) = {0, 0x3FF0000000000000}`. -/
theorem test_f64_one : f64OfDecimal ⟨false, 10, -1⟩ = some 0x3FF0000000000000 := by decide
/-- R60: ROTR a, k is ROTL a, w64(-k). -/
theorem test_rotr_operand : pseudoOperand .rotr ⟨0, 1⟩ = ⟨0, 0xFFFFFFFFFFFFFFFF⟩ := by decide
/-- R62, P6b: the code and the operand texts of `OP=0x1F A=(0x0, 0x6)`. -/
theorem test_listing_parts : codeText 0x1F = "0x1F".toList ∧ hexText 6 = "0x6".toList ∧ hexText 0 = "0x0".toList := by
  decide
/-- R61, P2 statement 5. -/
theorem test_statement_text : stmtText (.ifNe 4 .y (.dec 0) 9) = "if r4.Y != 0 goto 9".toList := by decide

/-! ### Witnesses: the hypotheses of each statement are met -/

theorem witness_EncodeOfDecodedWord : decodeWord 0x080000000000000001000000000000000200000000000000030000000000000004 = .ok (.mul ⟨1, 2⟩ ⟨3, 4⟩) := by rfl

theorem witness_StepRunsOutstandingInstruction :
    (State.reset.issue ⟨0x14, ⟨0, 1⟩, ⟨0, 63⟩⟩).request = some ⟨0x14, ⟨0, 1⟩, ⟨0, 63⟩⟩ ∧
      decode ⟨0x14, ⟨0, 1⟩, ⟨0, 63⟩⟩ = .ok (.lsh ⟨0, 1⟩ ⟨0, 63⟩) := ⟨rfl, rfl⟩

theorem witness_ReservedCodeIsIllegalOp :
    (State.reset.issue ⟨0x03, ⟨0, 1⟩, ⟨0, 63⟩⟩).request = some ⟨0x03, ⟨0, 1⟩, ⟨0, 63⟩⟩ ∧
      (0x03 : BitVec 5) ∈ reservedCodes := by decide

/-- An outstanding request: the hypothesis of EveryRequestIsAnsweredAtOnce, ResponseDependsOnRequestAlone,
FaultsInExactlyTwoCases and BlockNeverSeesTheHost. -/
theorem witness_outstanding_request :
    (State.reset.issue ⟨0x0D, ⟨0, 1⟩, ⟨0, 0⟩⟩).request = some ⟨0x0D, ⟨0, 1⟩, ⟨0, 0⟩⟩ := rfl

/-- Each clause of FaultsInExactlyTwoCases has its request. -/
theorem witness_FaultsInExactlyTwoCases_clauses :
    (⟨0x0D, ⟨0, 1⟩, zeroPair⟩ : Request).b.u = 0 ∧ (⟨0x0C, ⟨0, 1⟩, ⟨1, 0⟩⟩ : Request).b.lo = 0 ∧
      (0x1F : BitVec 5) ∈ reservedCodes ∧ (0x0D : BitVec 5) ∉ reservedCodes ∧ (⟨0, 1⟩ : WordPair).u ≠ 0 := by decide

theorem witness_HostIssuesAgainAfterReset :
    let p : List Stmt := [.request 1 (.op .inc (.record 8 .y) none)]
    let s := (hostAt p 1 ⟨0, 5⟩).hostCall 1 ⟨0x02, ⟨0, 5⟩, ⟨0, 0⟩⟩
    s.host.status = .running ∧ s.host.awaiting = some 1 ∧
      statementAt s.host.program s.host.counter = some (.request 1 (.op .inc (.record 8 .y) none)) ∧
      Call.wf (.op .inc (.record 8 .y) none) = true ∧
      assembleCall s.host.records (.op .inc (.record 8 .y) none) = .next ⟨0x02, ⟨0, 5⟩, ⟨0, 0⟩⟩ :=
  ⟨rfl, rfl, rfl, rfl, rfl⟩

theorem witness_HostInterfaceReadsAndIssues :
    (State.reset.issue ⟨0x02, ⟨0, 5⟩, ⟨0, 0⟩⟩).request = some ⟨0x02, ⟨0, 5⟩, ⟨0, 0⟩⟩ ∧
      State.reset.request = none ∧ State.reset.response = none ∧
      (State.reset.answer (.fault .divZero)).response = some (.fault .divZero) ∧
      (State.reset.answer (.ok (.value zeroPair))).response = some (.ok (.value zeroPair)) := by decide

theorem witness_OutputsNotSetAreZero :
    exec (.mul ⟨0, 2⟩ ⟨0, 3⟩) State.reset = .next (State.reset.answer (.ok (.value ⟨0, 6⟩))) ∧
      (State.reset.answer (.ok (.value ⟨0, 6⟩))).response = some (.ok (.value ⟨0, 6⟩)) := ⟨rfl, rfl⟩

theorem witness_IgnoredBitsNeverMatter :
    mnemonicOfCode 0x01 = some .add64 ∧ Mnemonic.add64.reads.agree ⟨5, 5⟩ ⟨0xDEAD, 3⟩ ⟨5, 5⟩ ⟨0, 3⟩ = true ∧
      mnemonicOfCode 0x1C = some .cvtf2u ∧ Mnemonic.cvtf2u.reads.agree ⟨1, 5⟩ ⟨0, 3⟩ ⟨2, 5⟩ ⟨7, 4⟩ = true ∧
      mnemonicOfCode 0x02 = some .inc ∧ Mnemonic.inc.reads.agree ⟨1, 5⟩ ⟨0, 3⟩ ⟨1, 5⟩ ⟨7, 4⟩ = true := by decide

/-- The divisors of Divu64QuotientAndRemainder, DivuQuotientAndRemainder and DividersAgreeOnWordDivisors. -/
theorem witness_nonzero_divisors :
    (⟨1, 1⟩ : WordPair).lo ≠ 0 ∧ (⟨1, 0⟩ : WordPair) ≠ zeroPair ∧
      (⟨0, 0xFFFFFFFFFFFFFFFF⟩ : WordPair).hi = 0 ∧ (⟨0, 0xFFFFFFFFFFFFFFFF⟩ : WordPair).lo ≠ 0 := by decide

theorem witness_DivisionByZeroFaults : zeroPair.u = 0 ∧ (⟨1, 0⟩ : WordPair).lo = 0 := by decide

theorem witness_DivisionShortcuts :
    (⟨0, 1⟩ : WordPair).u = 2 ^ 0 ∧ minInt128.u = 2 ^ 127 ∧ maxUint128 ≠ zeroPair ∧
      (⟨0, 5⟩ : WordPair).u < (⟨1, 0⟩ : WordPair).u := by decide

/-- The boundary amounts of LshWordByWord and RshWordByWord. -/
theorem witness_shift_amounts :
    (⟨0, 0⟩ : WordPair).lo.toNat = 0 ∧
      (0 < (⟨0, 1⟩ : WordPair).lo.toNat ∧ (⟨0, 63⟩ : WordPair).lo.toNat < 64) ∧
      (⟨0, 64⟩ : WordPair).lo.toNat = 64 ∧
      (64 < (⟨0, 65⟩ : WordPair).lo.toNat ∧ (⟨0, 127⟩ : WordPair).lo.toNat < 128) ∧
      128 ≤ (⟨0, 128⟩ : WordPair).lo.toNat ∧ 128 ≤ (⟨0, 0xFFFFFFFFFFFFFFFF⟩ : WordPair).lo.toNat := by decide

/-- The least amount, and one at the upper end, for RotationLaws' last clause. -/
theorem witness_RotationLaws : s64 0x8000000000000000 + 128 < 2 ^ 63 ∧ s64 0x7FFFFFFFFFFFFF7F + 128 < 2 ^ 63 := by
  decide

/-- Every kind of float of Cvtf2uTruncatesFlagsAndClamps: both zeros, in range, negative, too large, infinite, NaN. -/
theorem witness_Cvtf2uTruncatesFlagsAndClamps :
    (f64Value 0).toRat = some 0 ∧ (f64Value 0x8000000000000000).toRat = some 0 ∧
    (f64Value 0x3FF8000000000000).toRat = some (3 / 2) ∧ (f64Value 0xBFE0000000000000).toRat = some (-1 / 2) ∧
      (f64Value 0x47F0000000000000).toRat = some (2 ^ 128) ∧ f64Value 0x7FF0000000000000 = .inf false ∧
      f64Value 0xFFF0000000000000 = .inf true ∧ f64Value 0x7FF8000000000000 = .nan := by
  have h0 : f64Value 0 = .finite false 0 (-1074) := by decide
  have h0' : f64Value 0x8000000000000000 = .finite true 0 (-1074) := by decide
  have h1 : f64Value 0x3FF8000000000000 = .finite false (3 * 2 ^ 51) (-52) := by decide
  have h2 : f64Value 0xBFE0000000000000 = .finite true (2 ^ 52) (-53) := by decide
  have h3 : f64Value 0x47F0000000000000 = .finite false (2 ^ 52) 76 := by decide
  refine ⟨?_, ?_, ?_, ?_, ?_, by decide, by decide, by decide⟩
  · rw [h0]; simp only [F64Value.toRat, Option.some.injEq]; norm_num
  · rw [h0']; simp only [F64Value.toRat, Option.some.injEq]; norm_num
  · rw [h1]; simp only [F64Value.toRat, Option.some.injEq]; norm_num
  · rw [h2]; simp only [F64Value.toRat, Option.some.injEq]; norm_num
  · rw [h3]; simp only [F64Value.toRat, Option.some.injEq]; norm_num

/-- Both sides of IntToFloatFlags' conditions: 2^53 - 1 and MinInt128's magnitude are stripped to 53 bits or fewer. -/
theorem witness_IntToFloatFlags :
    (⟨0, 0x1FFFFFFFFFFFFF⟩ : WordPair).u = (2 ^ 53 - 1) * 2 ^ 0 ∧ minInt128.s.natAbs = 1 * 2 ^ 127 := by decide

/-- A rounding other than the default that is admissible at 2^53 + 3: it gives 2^53 + 2 where `rne` gives 2^53 + 4; so at
the unsigned reading of one operand and at the signed magnitude of another, as IntToFloatFlags asks. -/
theorem witness_IntToFloatFlags_other_rounding :
    let r : Rounding := fun _ => (0x4340000000000001, false)
    (r (2 ^ 53 + 3)).1 ≠ (rne (2 ^ 53 + 3)).1 ∧ r.AdmissibleAt (⟨0, 0x20000000000003⟩ : WordPair).u ∧
      r.AdmissibleAt (⟨0xFFFFFFFFFFFFFFFF, 0xFFDFFFFFFFFFFFFD⟩ : WordPair).s.natAbs := by
  have h : Rounding.AdmissibleAt (fun _ => (0x4340000000000001, false)) (2 ^ 53 + 3) := by
    have hv : f64Value 0x4340000000000001 = .finite false (2 ^ 52 + 1) 1 := by decide
    refine ⟨2 ^ 53 + 2, ?_, by omega, fun _ => by norm_num [abs_lt], ?_, by norm_num⟩
    · show (f64Value 0x4340000000000001).toRat = _
      rw [hv]; simp only [F64Value.toRat, Option.some.injEq]; norm_num
    · rintro ⟨m, k, hm, hmk⟩
      cases k with
      | zero => omega
      | succ k =>
        have heven : m * 2 ^ (k + 1) = 2 * (m * 2 ^ k) := by ring
        omega
  exact ⟨by decide, h, h⟩

theorem witness_RneMeetsAccuracyBound : (0x20000000000003 : Nat) < 2 ^ 128 := by decide

theorem witness_GoodStateIsKept :
    (State.reset.issue ⟨0x0D, ⟨0, 1⟩, ⟨0, 0⟩⟩).Inv ∧
      step (State.reset.issue ⟨0x0D, ⟨0, 1⟩, ⟨0, 0⟩⟩) = .next (State.reset.answer (.fault .divZero)) := by
  refine ⟨⟨rfl, .inr rfl, ?_, ?_, ?_⟩, next_of_after (by decide)⟩
  · intro c h; cases h
  · intro c h; cases h
  · intro n h; cases h

/-- A good state other than reset's, in which the host may issue, for OutsideActsKeepGoodState. -/
theorem witness_OutsideActsKeepGoodState : (State.reset.answer (.fault .divZero)).Inv := by
  refine ⟨rfl, .inl rfl, ?_, ?_, ?_⟩
  · intro c h; cases h; rfl
  · intro c h; cases h
  · intro n h; cases h

/-- One request statement that ends OK and one that faults. -/
theorem witness_HostRequestStatementRoundTrip :
    let c1 : Call := .op .add (.record 8 .y) (some (.lit (.dec 1)))
    let c2 : Call := .op .divu (.record 8 .y) (some (.lit .zero))
    let s := hostAt [.request 1 c1, .request 2 c2] 1 ⟨0, 5⟩
    let t := hostAt [.request 1 c1, .request 2 c2] 2 ⟨0, 5⟩
    (s.request = none ∧ s.host.status = .running ∧ s.host.awaiting = none ∧
      statementAt s.host.program s.host.counter = some (.request 1 c1) ∧ c1.wf = true ∧
      assembleCall s.host.records c1 = .next ⟨0x00, ⟨0, 5⟩, ⟨0, 1⟩⟩) ∧
    (t.request = none ∧ t.host.status = .running ∧ t.host.awaiting = none ∧
      statementAt t.host.program t.host.counter = some (.request 2 c2) ∧ c2.wf = true ∧
      assembleCall t.host.records c2 = .next ⟨0x0D, ⟨0, 5⟩, ⟨0, 0⟩⟩) :=
  ⟨⟨rfl, rfl, rfl, rfl, rfl, rfl⟩, rfl, rfl, rfl, rfl, rfl, rfl⟩

/-- Each kind of statement of HostControlStatements, at its place in a running program; r9 was never kept. -/
theorem witness_HostControlStatements :
    let p : List Stmt := [.ifEq 8 .y (.dec 5) 3, .ifNe 8 .cf .zero 2, .goto 5, .halt, .nop, .ifEq 9 .y .zero 1,
      .ifNe 9 .ex .zero 1]
    ∀ n, n ∈ [1, 2, 3, 4, 5, 6, 7] →
      let s := hostAt p n ⟨0, 5⟩
      s.request = none ∧ s.host.status = .running ∧ s.host.awaiting = none ∧
        (statementAt s.host.program s.host.counter).any (Stmt.wf s.host.program.length) = true ∧
        getRecord 8 s.host.records = some (presetRecord ⟨0, 5⟩) ∧ getRecord 9 s.host.records = none ∧ literalValue (.dec 5) = some ⟨0, 5⟩ ∧
        literalValue .zero = some zeroPair := by decide

theorem witness_PseudoInstructionsTakeTheirResult :
    (⟨0, 3⟩ : WordPair) ≠ zeroPair ∧ (⟨0, 3⟩ : WordPair).lo ≠ 0 := by decide

theorem witness_F64OperandHasItsValue :
    f64OfDecimal ⟨true, 125, -2⟩ = some 0xBFF4000000000000 ∧ f64OfDecimal ⟨false, 0, 0⟩ = some 0 := by decide

end Sys2Proof.Tests
end

section
/-! SUPPORT. The block's answer as one act: whatever the request, there is one response that it gives in every state
(00_scope.md R6, R127). -/

namespace Sys2Proof.Machine

/-- Each instruction answers with one response, the same in every state: the arms of exec read the operands only. -/
theorem exec_answers (i : Instr) : ∃ x : Response, ∀ s : State, exec i s = .next (s.answer x) := by
  cases i with
  | add a b => exact ⟨_, exec_add a b⟩
  | add64 a b => exact ⟨_, exec_add64 a b⟩
  | inc a b => exact ⟨_, exec_inc a b⟩
  | sub a b => exact ⟨_, exec_sub a b⟩
  | sub64 a b => exact ⟨_, exec_sub64 a b⟩
  | dec a b => exact ⟨_, exec_dec a b⟩
  | mul a b => exact ⟨_, exec_mul a b⟩
  | mul64 a b => exact ⟨_, exec_mul64 a b⟩
  | divu64 a b =>
    by_cases h : b.lo.toNat = 0
    · exact ⟨_, fun s => exec_divu64_zero a b s h⟩
    · exact ⟨_, fun s => exec_divu64 a b s h⟩
  | divu a b =>
    by_cases h : b.u = 0
    · exact ⟨_, fun s => exec_divu_zero a b s h⟩
    · exact ⟨_, fun s => exec_divu a b s h⟩
  | neg a b => exact ⟨_, exec_neg a b⟩
  | lsh a b => exact ⟨_, exec_lsh a b⟩
  | rsh a b => exact ⟨_, exec_rsh a b⟩
  | rotl a b => exact ⟨_, exec_rotl a b⟩
  | cmps a b => exact ⟨_, exec_cmps a b⟩
  | cmpu a b => exact ⟨_, exec_cmpu a b⟩
  | cmpu64 a b => exact ⟨_, exec_cmpu64 a b⟩
  | cvtf2u a b => exact ⟨_, exec_cvtf2u a b⟩
  | cvtu2f a b => exact ⟨_, exec_cvtu2f a b⟩
  | cvti2f a b => exact ⟨_, exec_cvti2f a b⟩

/-- The step on an outstanding request that decodes is that instruction's meaning. -/
theorem step_of_decode_ok {s : State} {r : Request} {i : Instr} (hr : s.request = some r) (hd : decode r = .ok i) :
    step s = exec i s := by
  simp [step, hr, hd]

/-- The step on an outstanding request with a reserved code is the ILLEGAL_OP answer (60_exceptions.md R110). -/
theorem step_of_decode_error {s : State} {r : Request} {e : DecodeError} (hr : s.request = some r)
    (hd : decode r = .error e) : step s = .next (s.answer (.fault .illegalOp)) := by
  cases e
  simp [step, hr, hd, raiseFault_eq]

/-- With no request outstanding the step is the host's (00_scope.md R5). -/
theorem step_of_no_request {s : State} (hr : s.request = none) : step s = hostStep s := by
  simp [step, hr]

/-- Each request has one response, given in every state in which it is outstanding; reserved codes included. -/
theorem step_answers (r : Request) :
    ∃ x : Response, ∀ s : State, s.request = some r → step s = .next (s.answer x) := by
  cases hd : decode r with
  | error e => exact ⟨_, fun s hr => step_of_decode_error hr hd⟩
  | ok i =>
    obtain ⟨x, hx⟩ := exec_answers i
    exact ⟨x, fun s hr => (step_of_decode_ok hr hd).trans (hx s)⟩

end Sys2Proof.Machine
end

section
/-! PROOFS. The invariant is kept: one lemma per act of the block and of the host, then the step (00_scope.md R5,
30_encoding.md R61, 60_exceptions.md R113). -/

namespace Sys2Proof.Machine

/-- No answer drops an entry of the record of faults. -/
theorem State.mem_answer_faults {s : State} {c : FaultCode} (x : Response) (h : c ∈ s.faults) :
    c ∈ (s.answer x).faults := by
  cases x with
  | ok o => exact h
  | fault d => exact List.mem_append_left [d] h

/-- Answering keeps the invariant: the host is untouched, and a fault is entered where the response carries it. -/
theorem State.Inv.answer {s : State} (hs : s.Inv) (x : Response) : (s.answer x).Inv where
  records_wf := hs.records_wf
  handshake := .inl rfl
  fault_kept c hc := by
    obtain rfl : x = .fault c := Option.some.inj hc
    simp
  faulted_kept c hc := s.mem_answer_faults x (hs.faulted_kept c hc)
  awaiting_ok := hs.awaiting_ok

/-- Issuing from a running program keeps the invariant where the counter stands at the request statement. -/
theorem State.Inv.hostCall {s : State} (hs : s.Inv) (hrun : s.host.status = .running) {dst : Nat} {c : Call}
    (hst : statementAt s.host.program s.host.counter = some (.request dst c)) (r : Request) :
    (s.hostCall dst r).Inv where
  records_wf := hs.records_wf
  handshake := .inr rfl
  fault_kept c hc := by simp at hc
  faulted_kept := hs.faulted_kept
  awaiting_ok n hn := by
    obtain rfl : dst = n := Option.some.inj hn
    exact ⟨hrun, c, hst⟩

/-- Moving the counter keeps the invariant of a host that waits for nothing. -/
theorem State.Inv.goTo {s : State} (hs : s.Inv) (ha : s.host.awaiting = none) (l : Nat) : (s.goTo l).Inv where
  records_wf := hs.records_wf
  handshake := hs.handshake
  fault_kept := hs.fault_kept
  faulted_kept := hs.faulted_kept
  awaiting_ok n hn := by simp [ha] at hn

/-- Keeping an OK response as a record keeps the invariant. -/
theorem State.Inv.keep {s : State} (hs : s.Inv) (dst : Nat) (o : Outputs) : (s.keep dst o).Inv where
  records_wf := recordsWf_putRecord dst o s.host.records hs.records_wf
  handshake := hs.handshake
  fault_kept := hs.fault_kept
  faulted_kept := hs.faulted_kept
  awaiting_ok n hn := by simp at hn

/-- Ending a program keeps the invariant when the fault it ends in, if any, is one of the run's. -/
theorem State.Inv.endProgram {s : State} (hs : s.Inv) {st : HostStatus} (hst : ∀ c, st = .faulted c → c ∈ s.faults) :
    (s.endProgram st).Inv where
  records_wf := hs.records_wf
  handshake := hs.handshake
  fault_kept := hs.fault_kept
  faulted_kept := hst
  awaiting_ok n hn := by simp at hn

/-- Receiving the response that is there keeps the invariant: a fault received already stands in the record. -/
theorem State.Inv.receive {s : State} (hs : s.Inv) (dst : Nat) {x : Response} (hx : s.response = some x) :
    (s.receive dst x).Inv := by
  cases x with
  | ok o => exact hs.keep dst o
  | fault c =>
    have hmem : c ∈ s.faults := List.mem_of_getLast? (hs.fault_kept c hx)
    exact hs.endProgram fun d hd => by injection hd with hd; exact hd ▸ hmem

/-- Running the statement of the counter keeps the invariant. A host that still waits stands at a request statement, so
no other statement runs while it does. -/
theorem State.Inv.runStatement {s t : State} {st : Stmt} (hs : s.Inv) (hrun : s.host.status = .running)
    (hst : statementAt s.host.program s.host.counter = some st) (h : runStatement st s = .next t) : t.Inv := by
  rcases runStatement_next h with ⟨dst, c, r, rfl, -, rfl⟩ | ⟨l, rfl, hno⟩ | ⟨-, rfl⟩
  · exact hs.hostCall hrun hst r
  · have ha : s.host.awaiting = none := by
      refine Option.eq_none_iff_forall_ne_some.mpr fun n hn => ?_
      obtain ⟨-, c, hc⟩ := hs.awaiting_ok n hn
      exact hno n c (Option.some.inj (hst.symm.trans hc))
    exact hs.goTo ha l
  · exact hs.endProgram fun c hc => by cases hc

/-- The host's step keeps the invariant. -/
theorem State.Inv.hostStep {s t : State} (hs : s.Inv) (h : hostStep s = .next t) : t.Inv := by
  obtain ⟨hrun, ⟨dst, x, -, hx, rfl⟩ | ⟨-, st, hst, -, hrs⟩⟩ := hostStep_next h
  · exact hs.receive dst hx
  · exact hs.runStatement hrun hst hrs

/-- Settles O53: the block's turn is an answer, the host's turn an act of the host, and each keeps the invariant. -/
theorem goodStateIsKept : Obligations.GoodStateIsKept := by
  intro s t hs h
  cases hr : s.request with
  | none => exact hs.hostStep ((step_of_no_request hr).symm.trans h)
  | some r =>
    obtain ⟨x, hx⟩ := step_answers r
    obtain rfl : s.answer x = t := by simpa [hx s hr] using h
    exact hs.answer x

/-- Settles O10: the function is the one `step_answers` gives, request by request. -/
theorem responseDependsOnRequestAlone : Obligations.ResponseDependsOnRequestAlone := by
  choose f hf using step_answers
  exact ⟨f, fun s r hr => ⟨s.answer (f r), hf r s hr, s.answer_response (f r)⟩⟩

end Sys2Proof.Machine
end

section
/-! SUPPORT. Float64 patterns as numbers: the pattern of a normal from its two fields, and what `rne` gives as a rational
(47_converters.md R97, R98, R102). -/

namespace Sys2Proof

theorem toNat_w64_of_lt {n : Nat} (h : n < 2 ^ 64) : (w64 n).toNat = n := by
  rw [toNat_w64_nat, Nat.mod_eq_of_lt h]

/-- R97: below 2^63 the sign field is 0. -/
theorem getLsbD_w64_sign {n : Nat} (h : n < 2 ^ 63) : (w64 n).getLsbD 63 = false := by
  rw [← BitVec.testBit_toNat, toNat_w64_of_lt (by omega)]
  exact Nat.testBit_lt_two_pow h

/-- R97: the fields of `0 ‖ E ‖ F`. -/
theorem f64Fields_w64 {E F : Nat} (hE : E < 2 ^ 11) (hF : F < 2 ^ 52) :
    f64Fields (w64 (E * 2 ^ 52 + F : Nat)) = ⟨false, E, F⟩ := by
  have hlt : E * 2 ^ 52 + F < 2 ^ 63 := by omega
  have hE' : (E * 2 ^ 52 + F) / 2 ^ 52 % 2 ^ 11 = E := by omega
  have hF' : (E * 2 ^ 52 + F) % 2 ^ 52 = F := by omega
  simp only [f64Fields, getLsbD_w64_sign hlt, toNat_w64_of_lt (show E * 2 ^ 52 + F < 2 ^ 64 by omega), hE', hF']

/-- R98: a normal of sign 0. -/
theorem f64Value_normal {E F : Nat} (hE0 : 0 < E) (hE : E < 0x7FF) (hF : F < 2 ^ 52) :
    f64Value (w64 (E * 2 ^ 52 + F : Nat)) = .finite false (2 ^ 52 + F) (E - 1075) := by
  simp only [f64Value, f64Fields_w64 (show E < 2 ^ 11 by omega) hF]
  rw [if_neg (by omega), if_neg (by omega)]

theorem toRat_finite_pos (m : Nat) (e : Int) : (F64Value.finite false m e).toRat = some ((m : ℚ) * 2 ^ e) := by
  simp [F64Value.toRat]

theorem rneSignificand_of_le {v : Nat} (h : bitlen v ≤ 53) : rneSignificand v = (v * 2 ^ (53 - bitlen v), true) := by
  simp [rneSignificand, h]

/-- R102: above 53 bits the exact flag says that the dropped bits are 0. -/
theorem rneSignificand_exact_iff {v : Nat} (h : 53 < bitlen v) :
    (rneSignificand v).2 = true ↔ v % 2 ^ (bitlen v - 53) = 0 := by
  simp [rneSignificand, Nat.not_le.mpr h]

/-- R102: above 53 bits the significand is the top 53 bits, where the dropped ones are at most half a unit, or one more,
where they are at least half. -/
theorem rneSignificand_cases {v : Nat} (h : 53 < bitlen v) :
    ((rneSignificand v).1 = v / 2 ^ (bitlen v - 53) ∧ v % 2 ^ (bitlen v - 53) ≤ 2 ^ (bitlen v - 53 - 1)) ∨
    ((rneSignificand v).1 = v / 2 ^ (bitlen v - 53) + 1 ∧ 2 ^ (bitlen v - 53 - 1) ≤ v % 2 ^ (bitlen v - 53)) := by
  simp only [rneSignificand, if_neg (Nat.not_le.mpr h)]
  split
  · exact .inr ⟨rfl, by omega⟩
  · exact .inl ⟨rfl, by omega⟩

/-- The top 53 bits of an integer of at least 53 bits make a number of exactly 53 bits. -/
theorem top_bits_bounds {v : Nat} (h : 53 ≤ bitlen v) :
    2 ^ 52 ≤ v / 2 ^ (bitlen v - 53) ∧ v / 2 ^ (bitlen v - 53) < 2 ^ 53 := by
  have hv : v ≠ 0 := by rintro rfl; simp [bitlen] at h
  have hlo := two_pow_bitlen_le hv
  have hhi := lt_two_pow_bitlen v
  rw [show bitlen v - 1 = 52 + (bitlen v - 53) by omega, pow_add] at hlo
  rw [show bitlen v = 53 + (bitlen v - 53) by omega, pow_add] at hhi
  exact ⟨(Nat.le_div_iff_mul_le (by positivity)).mpr hlo, Nat.div_lt_of_lt_mul (by rwa [mul_comm])⟩

/-- R102: the significand has 53 bits, before the carry that makes it 2^53. -/
theorem rneSignificand_bounds {v : Nat} (hv : v ≠ 0) :
    2 ^ 52 ≤ (rneSignificand v).1 ∧ (rneSignificand v).1 ≤ 2 ^ 53 := by
  rcases Nat.lt_or_ge 53 (bitlen v) with h | h
  · have := top_bits_bounds h.le
    rcases rneSignificand_cases h with ⟨hm, -⟩ | ⟨hm, -⟩ <;> omega
  · have hp := bitlen_pos hv
    rw [rneSignificand_of_le h]
    constructor
    · calc 2 ^ 52 = 2 ^ (bitlen v - 1) * 2 ^ (53 - bitlen v) := by rw [← pow_add]; congr 1; omega
        _ ≤ v * 2 ^ (53 - bitlen v) := Nat.mul_le_mul_right _ (two_pow_bitlen_le hv)
    · calc v * 2 ^ (53 - bitlen v) ≤ 2 ^ bitlen v * 2 ^ (53 - bitlen v) :=
            Nat.mul_le_mul_right _ (lt_two_pow_bitlen v).le
        _ = 2 ^ 53 := by rw [← pow_add]; congr 1; omega

/-- The number `rne v` stands for: the significand at the scale of v's leading bit. `rne_toRat` ties it to the
pattern. -/
def rneValue (v : Nat) : ℚ := (rneSignificand v).1 * 2 ^ ((bitlen v : Int) - 53)

/-- R102: the pattern of `rne v` as its two fields; the carry to 2^53 goes to the exponent. -/
theorem rne_eq {v : Nat} (hv : v ≠ 0) :
    (rne v).1 = if (rneSignificand v).1 = 2 ^ 53 then w64 ((bitlen v + 1023) * 2 ^ 52 + 0 : Nat)
      else w64 ((bitlen v + 1022) * 2 ^ 52 + ((rneSignificand v).1 - 2 ^ 52) : Nat) := by
  have hp := bitlen_pos hv
  have hcarry : bitlen v - 1 + 1 + 1023 = bitlen v + 1023 := by omega
  have hplain : bitlen v - 1 + 1023 = bitlen v + 1022 := by omega
  simp only [rne, if_neg hv]
  rw [hcarry, hplain, Nat.add_zero (_ * _), apply_ite Prod.fst]

/-- The exactness flag of `rne` is that of its significand; zero is exact. -/
theorem rne_exact (v : Nat) : (rne v).2 = (rneSignificand v).2 := by
  by_cases hv : v = 0
  · subst hv; rfl
  · simp only [rne, if_neg hv]
    split <;> rfl

/-- R102, R98: below 2^128 the pattern of `rne v` is finite and denotes `rneValue v`. -/
theorem rne_toRat {v : Nat} (hv : v < 2 ^ 128) : (f64Value (rne v).1).toRat = some (rneValue v) := by
  by_cases h0 : v = 0
  · subst h0
    have hz : f64Value (rne 0).1 = .finite false 0 (-1074) := by decide
    rw [hz, toRat_finite_pos]
    simp [rneValue, rneSignificand]
  · have hb : bitlen v ≤ 128 := (bitlen_le_iff v 128).mpr hv
    obtain ⟨hlo, hhi⟩ := rneSignificand_bounds h0
    rw [rne_eq h0]
    split
    · next hm =>
      rw [f64Value_normal (by omega) (by omega) (by omega), toRat_finite_pos, rneValue, hm,
        show ((bitlen v + 1023 : Nat) : Int) - 1075 = ((bitlen v : Int) - 53) + 1 by push_cast; ring,
        zpow_add_one₀ two_ne_zero]
      refine congrArg some ?_
      push_cast
      ring
    · next hm =>
      rw [f64Value_normal (by omega) (by omega) (by omega), toRat_finite_pos, rneValue, Nat.add_sub_cancel' hlo,
        show ((bitlen v + 1022 : Nat) : Int) - 1075 = (bitlen v : Int) - 53 by push_cast; ring]

/-- Up to 53 bits nothing is dropped. -/
theorem rneValue_of_le {v : Nat} (h : bitlen v ≤ 53) : rneValue v = v := by
  have hs : (2 : ℚ) ^ (53 - bitlen v) * 2 ^ ((bitlen v : Int) - 53) = 1 := by
    rw [← zpow_natCast, ← zpow_add₀ two_ne_zero, Nat.cast_sub h]
    simp
  rw [rneValue, rneSignificand_of_le h]
  push_cast
  rw [mul_assoc, hs, mul_one]

/-- From 53 bits on the value is an integer, a multiple of the unit `2^(bitlen v - 53)`. -/
theorem rneValue_of_ge {v : Nat} (h : 53 ≤ bitlen v) :
    rneValue v = ((rneSignificand v).1 * 2 ^ (bitlen v - 53) : Nat) := by
  rw [rneValue, ← Nat.cast_ofNat (n := 53), ← Nat.cast_sub h, zpow_natCast]
  push_cast
  rfl

/-- R102: above 53 bits the integer chosen is at most half a unit away from v. -/
theorem rneSignificand_error {v : Nat} (h : 53 < bitlen v) :
    |(((rneSignificand v).1 * 2 ^ (bitlen v - 53) : Nat) : Int) - v| ≤ 2 ^ (bitlen v - 53 - 1) := by
  have hunit : 2 ^ (bitlen v - 53) = 2 * 2 ^ (bitlen v - 53 - 1) := by rw [← pow_succ']; congr 1; omega
  have hdiv := Nat.div_add_mod' v (2 ^ (bitlen v - 53))
  have hrem := Nat.mod_lt v (Nat.two_pow_pos (bitlen v - 53))
  rw [abs_le]
  rcases rneSignificand_cases h with ⟨hm, hr⟩ | ⟨hm, hr⟩
  · have hrem0 := Nat.zero_le (v % 2 ^ (bitlen v - 53))
    rw [hm]
    zify at hunit hdiv hrem hrem0 hr
    constructor <;> push_cast <;> linarith
  · rw [hm]
    zify at hunit hdiv hrem hr
    constructor <;> push_cast <;> linarith

/-- R106: `rne` is within relative error 2^-53, and so exact on zero. -/
theorem rneValue_error (v : Nat) : |rneValue v - v| * 2 ^ 53 ≤ v := by
  rcases Nat.lt_or_ge 53 (bitlen v) with h | h
  · have hv : v ≠ 0 := by rintro rfl; simp [bitlen] at h
    have hunit : 2 ^ (bitlen v - 53 - 1) * 2 ^ 53 ≤ (v : Int) := by
      have := two_pow_bitlen_le hv
      rw [← pow_add, show bitlen v - 53 - 1 + 53 = bitlen v - 1 by omega]
      exact_mod_cast this
    have herr : |(((rneSignificand v).1 * 2 ^ (bitlen v - 53) : Nat) : Int) - v| * 2 ^ 53 ≤ (v : Int) :=
      (mul_le_mul_of_nonneg_right (rneSignificand_error h) (by norm_num)).trans hunit
    rw [rneValue_of_ge h.le]
    exact_mod_cast herr
  · rw [rneValue_of_le h]
    simp

/-- R103: the exactness flag of the significand says that the value is v. -/
theorem rneValue_eq_iff (v : Nat) : rneValue v = v ↔ (rneSignificand v).2 = true := by
  rcases Nat.lt_or_ge 53 (bitlen v) with h | h
  · rw [rneValue_of_ge h.le, Nat.cast_inj, rneSignificand_exact_iff h]
    constructor
    · exact fun hv => Nat.mod_eq_zero_of_dvd (Dvd.intro_left _ hv)
    · intro hr
      rcases rneSignificand_cases h with ⟨hm, -⟩ | ⟨-, hhalf⟩
      · rw [hm, Nat.div_mul_cancel (Nat.dvd_of_mod_eq_zero hr)]
      · have := Nat.two_pow_pos (bitlen v - 53 - 1)
        omega
  · simp [rneValue_of_le h, rneSignificand_of_le h]

/-- R103: an integer of at most 53 significant bits is flagged exact: its trailing zeros cover the dropped bits. -/
theorem rneSignificand_exact_of_mul_two_pow {m k : Nat} (hm : m < 2 ^ 53) : (rneSignificand (m * 2 ^ k)).2 = true := by
  rcases Nat.lt_or_ge 53 (bitlen (m * 2 ^ k)) with h | h
  · have hlen : bitlen (m * 2 ^ k) ≤ 53 + k := by
      rw [bitlen_le_iff, pow_add]
      exact Nat.mul_lt_mul_of_pos_right hm (Nat.two_pow_pos k)
    rw [rneSignificand_exact_iff h]
    exact Nat.mod_eq_zero_of_dvd (Dvd.dvd.mul_left (pow_dvd_pow 2 (by omega)) m)
  · rw [rneSignificand_of_le h]

end Sys2Proof
end

section
/-! PROOFS. The default rounding is a value of U2F_ROUND (00_scope.md R7, 92_eei_decisions.md D11). -/

namespace Sys2Proof

/-- Settles O52: the value of `rne v` is `rneValue v`, whose error is at most 2^-53 of v; the flag is the
significand's. -/
theorem defaultRoundingIsAdmissible : Obligations.DefaultRoundingIsAdmissible := by
  show Rounding.Admissible rne
  intro v hv
  have herr := rneValue_error v
  refine ⟨rneValue v, rne_toRat hv, ?zero, ?bound, ?exact, ?flag⟩
  case zero => rintro rfl; simpa using (rneValue_of_le (v := 0) (by decide))
  case bound =>
    intro hpos
    have hpos' : (0 : ℚ) < v := Nat.cast_pos.mpr hpos
    linarith
  case exact =>
    rintro ⟨m, k, hm, rfl⟩
    exact (rneValue_eq_iff _).mpr (rneSignificand_exact_of_mul_two_pow hm)
  case flag =>
    rw [rne_exact, rneValue_eq_iff]

end Sys2Proof
end

section
/-! SUPPORT. The host's acts at the interface, one equation per case (10_state.md R5, R21, R32, R33), and what a response
can be, operation by operation (10_state.md R20, R24 to R28). -/

namespace Sys2Proof.Machine

theorem hostIssue_of_request {s : State} {q : Request} (r : Request) (h : s.request = some q) :
    hostIssue r s = .refused .requestOutstanding := by
  simp [hostIssue, h]

theorem hostIssue_of_no_request {s : State} (r : Request) (h : s.request = none) :
    hostIssue r s = .next (s.issue r) := by
  simp [hostIssue, h]

theorem hostRead_of_no_response {s : State} (h : s.response = none) : hostRead s = .fault .noResponseToRead := by
  simp [hostRead, h]

theorem hostRead_of_fault {s : State} {c : FaultCode} (h : s.response = some (.fault c)) :
    hostRead s = .refused .noOutputs := by
  simp [hostRead, h]

theorem hostRead_of_ok {s : State} {o : Outputs} (h : s.response = some (.ok o)) : hostRead s = .next o := by
  simp [hostRead, h]

/-- A host that runs no program has no step (00_scope.md R5; assumption 1). -/
theorem hostStep_of_not_running {s : State} (h : s.host.status ≠ .running) : hostStep s = .refused .noRequest := by
  cases hst : s.host.status with
  | running => exact absurd hst h
  | idle => simp [hostStep, hst]
  | done => simp [hostStep, hst]
  | faulted c => simp [hostStep, hst]

/-- Which responses an operation can give (R28, 60_exceptions.md R108): the outputs its unit sets, all others 0, or, for
the dividers, DIV_ZERO. `exec_gives` ties it to `exec`. -/
inductive Gives : Mnemonic → Response → Prop where
  | carry {m : Mnemonic} (hm : m ∈ [.add, .add64, .inc, .sub, .sub64, .dec]) (y : WordPair) (cf : Bool) :
      Gives m (.ok (.carry y cf))
  | value {m : Mnemonic} (hm : m ∈ [.mul, .mul64, .neg, .lsh, .rsh, .rotl, .cmps, .cmpu, .cmpu64]) (y : WordPair) :
      Gives m (.ok (.value y))
  | division {m : Mnemonic} (hm : m ∈ [.divu64, .divu]) (q r : WordPair) : Gives m (.ok (.division q r))
  | divZero {m : Mnemonic} (hm : m ∈ [.divu64, .divu]) : Gives m (.fault .divZero)
  | conversion {m : Mnemonic} (hm : m ∈ [.cvtf2u, .cvtu2f, .cvti2f]) (y : WordPair) (ir ex : Bool) :
      Gives m (.ok (.conversion y ir ex))

/-- R104: CVTU2F answers with a conversion's outputs, IR being 1. -/
theorem cvtu2fOutputs_eq_conversion (round : Rounding) (a : WordPair) :
    ∃ y ex, cvtu2fOutputs round a = .conversion y true ex := ⟨_, _, rfl⟩

/-- R105: CVTI2F answers with a conversion's outputs, IR being 1, for both signs. -/
theorem cvti2fOutputs_eq_conversion (round : Rounding) (a : WordPair) :
    ∃ y ex, cvti2fOutputs round a = .conversion y true ex := by
  unfold cvti2fOutputs
  split
  · exact ⟨_, _, rfl⟩
  · exact ⟨_, _, rfl⟩

/-- Each instruction answers with one of the responses its operation can give. -/
theorem exec_gives (i : Instr) (s : State) : ∃ x, exec i s = .next (s.answer x) ∧ Gives i.mnemonic x := by
  cases i with
  | add a b => exact ⟨_, exec_add a b s, .carry (by simp [Instr.mnemonic]) _ _⟩
  | add64 a b => exact ⟨_, exec_add64 a b s, .carry (by simp [Instr.mnemonic]) _ _⟩
  | inc a b => exact ⟨_, exec_inc a b s, .carry (by simp [Instr.mnemonic]) _ _⟩
  | sub a b => exact ⟨_, exec_sub a b s, .carry (by simp [Instr.mnemonic]) _ _⟩
  | sub64 a b => exact ⟨_, exec_sub64 a b s, .carry (by simp [Instr.mnemonic]) _ _⟩
  | dec a b => exact ⟨_, exec_dec a b s, .carry (by simp [Instr.mnemonic]) _ _⟩
  | mul a b => exact ⟨_, exec_mul a b s, .value (by simp [Instr.mnemonic]) _⟩
  | mul64 a b => exact ⟨_, exec_mul64 a b s, .value (by simp [Instr.mnemonic]) _⟩
  | divu64 a b =>
    by_cases h : b.lo.toNat = 0
    · exact ⟨_, exec_divu64_zero a b s h, .divZero (by simp [Instr.mnemonic])⟩
    · exact ⟨_, exec_divu64 a b s h, .division (by simp [Instr.mnemonic]) _ _⟩
  | divu a b =>
    by_cases h : b.u = 0
    · exact ⟨_, exec_divu_zero a b s h, .divZero (by simp [Instr.mnemonic])⟩
    · exact ⟨_, exec_divu a b s h, .division (by simp [Instr.mnemonic]) _ _⟩
  | neg a b => exact ⟨_, exec_neg a b s, .value (by simp [Instr.mnemonic]) _⟩
  | lsh a b => exact ⟨_, exec_lsh a b s, .value (by simp [Instr.mnemonic]) _⟩
  | rsh a b => exact ⟨_, exec_rsh a b s, .value (by simp [Instr.mnemonic]) _⟩
  | rotl a b => exact ⟨_, exec_rotl a b s, .value (by simp [Instr.mnemonic]) _⟩
  | cmps a b => exact ⟨_, exec_cmps a b s, .value (by simp [Instr.mnemonic]) _⟩
  | cmpu a b => exact ⟨_, exec_cmpu a b s, .value (by simp [Instr.mnemonic]) _⟩
  | cmpu64 a b => exact ⟨_, exec_cmpu64 a b s, .value (by simp [Instr.mnemonic]) _⟩
  | cvtf2u a b => exact ⟨_, exec_cvtf2u a b s, .conversion (by simp [Instr.mnemonic]) _ _ _⟩
  | cvtu2f a b =>
    obtain ⟨y, ex, ho⟩ := cvtu2fOutputs_eq_conversion Config.u2fRound a
    exact ⟨_, ho ▸ exec_cvtu2f a b s, .conversion (by simp [Instr.mnemonic]) y true ex⟩
  | cvti2f a b =>
    obtain ⟨y, ex, ho⟩ := cvti2fOutputs_eq_conversion Config.u2fRound a
    exact ⟨_, ho ▸ exec_cvti2f a b s, .conversion (by simp [Instr.mnemonic]) y true ex⟩

/-- The response in the next state of an instruction is one its operation can give. -/
theorem gives_of_exec {i : Instr} {s t : State} {x : Response} (h : exec i s = .next t) (hx : t.response = some x) :
    Gives i.mnemonic x := by
  obtain ⟨y, hy, hg⟩ := exec_gives i s
  obtain rfl : s.answer y = t := Host.Outcome.next.inj (hy.symm.trans h)
  obtain rfl : y = x := Option.some.inj hx
  exact hg

end Sys2Proof.Machine
end

section
/-! PROOFS. The block's state and outputs, and the host at the interface (10_state.md). -/

namespace Sys2Proof.Machine

/-- Settles O18: the response slot is empty, and the host that would have the turn runs no program. -/
theorem resetHoldsNoResponse : Obligations.ResetHoldsNoResponse := by
  refine ⟨rfl, rfl, hostRead_of_no_response rfl, ?_⟩
  rw [step_of_no_request rfl]
  exact hostStep_of_not_running (by decide)

/-- Settles O19: each clause is the interface's equation for that case. -/
theorem hostInterfaceReadsAndIssues : Obligations.HostInterfaceReadsAndIssues :=
  fun _ r _ _ _ => ⟨hostIssue_of_request r, hostIssue_of_no_request r, hostRead_of_no_response, hostRead_of_fault,
    hostRead_of_ok⟩

/-- Settles O20: the next state is the answer with the instruction's one response, and answering is framed. -/
theorem instructionFrame : Obligations.InstructionFrame := by
  intro i s
  obtain ⟨x, hx⟩ := exec_answers i
  refine ⟨s.answer x, x, hx s, s.answer_request x, s.answer_response x, s.answer_host x, ?ok, ?fault⟩
  case ok => rintro o rfl; exact s.answer_ok_faults o
  case fault => rintro c rfl; exact s.answer_fault_faults c

/-- Settles O21: of the four kinds of OK response an operation can give, each leaves the other outputs 0, and only the
families that R20 excepts give the kinds that set Z, CF, or IR and EX. -/
theorem outputsNotSetAreZero : Obligations.OutputsNotSetAreZero := by
  intro i s t o h ho
  refine ⟨rfl, ?_⟩
  cases gives_of_exec h ho with
  | carry hm => exact ⟨fun _ _ => rfl, fun hno => absurd hm hno, fun _ => ⟨rfl, rfl⟩⟩
  | value hm => exact ⟨fun _ _ => rfl, fun _ => rfl, fun _ => ⟨rfl, rfl⟩⟩
  | division hm =>
    have hdiv : i.mnemonic = .divu64 ∨ i.mnemonic = .divu := by simpa using hm
    exact ⟨fun hno hno64 => (hdiv.elim hno64 hno).elim, fun _ => rfl, fun _ => ⟨rfl, rfl⟩⟩
  | conversion hm => exact ⟨fun _ _ => rfl, fun _ => rfl, fun hno => absurd hm hno⟩

/-- Settles O54: at reset no record is kept, nothing is outstanding, answered or awaited, and no program has ended. -/
theorem resetStateIsGood : Obligations.ResetStateIsGood where
  records_wf := rfl
  handshake := .inl rfl
  fault_kept _ hc := by cases hc
  faulted_kept _ hc := by cases hc
  awaiting_ok _ hn := by cases hn

end Sys2Proof.Machine
end

section
/-! PROOFS. Sequences of requests: the block keeps nothing from one request to the next (20_memory.md R40, R42). -/

namespace Sys2Proof.Machine

/-- A request that is answered puts its response first; the rest are issued from the answered state. -/
theorem responses_cons_of_next {s : State} {r : Request} {x : Response}
    (h : step (s.issue r) = .next ((s.issue r).answer x)) (rest : List Request) :
    responses s (r :: rest) = some x :: responses ((s.issue r).answer x) rest := by
  simp only [responses, h, State.answer_response]

/-- If `f` gives the block's response to every request, then it gives every response of a sequence: by induction on the
list for all start states, since each answer leaves another start state for the rest. -/
theorem responses_eq_map {f : Request → Response}
    (hf : ∀ r s, s.request = some r → step s = .next (s.answer (f r))) (s : State) (rs : List Request) :
    responses s rs = rs.map fun r => some (f r) := by
  induction rs generalizing s with
  | nil => rfl
  | cons r rest ih =>
    have hstep : step (s.issue r) = .next ((s.issue r).answer (f r)) := hf r (s.issue r) (s.issue_request r)
    rw [responses_cons_of_next hstep, ih, List.map_cons]

/-- Settles O11: the function is the one `step_answers` gives, request by request. -/
theorem requestSequenceAnsweredAlone : Obligations.RequestSequenceAnsweredAlone := by
  choose f hf using step_answers
  exact ⟨f, responses_eq_map hf⟩

end Sys2Proof.Machine
end

section
/-! SUPPORT. The operation map and the decoder, one fact per direction (30_encoding.md R45, R46, R55, R57). -/

namespace Sys2Proof

/-- R46: the flat table gives back the operation of each operation's code. -/
@[simp] theorem mnemonicOfCode_code (m : Mnemonic) : mnemonicOfCode m.code = some m := by
  cases m <;> rfl

/-- R46: what the flat table names for a code has that code; checked over the 32 codes. -/
theorem code_of_mnemonicOfCode : ∀ (op : BitVec 5), ∀ m ∈ mnemonicOfCode op, m.code = op := by decide

/-- R46: the flat table and the column of codes say the same. -/
theorem mnemonicOfCode_eq_some_iff {op : BitVec 5} {m : Mnemonic} : mnemonicOfCode op = some m ↔ m.code = op := by
  constructor
  · exact code_of_mnemonicOfCode op m
  · rintro rfl
    exact mnemonicOfCode_code m

/-- R46, R55: the flat table names no operation for the reserved codes and for no other; checked over the 32 codes. -/
theorem mnemonicOfCode_eq_none_iff : ∀ op : BitVec 5, mnemonicOfCode op = none ↔ op ∈ reservedCodes := by decide

@[simp] theorem Mnemonic.mnemonic_instr (m : Mnemonic) (a b : WordPair) : (m.instr a b).mnemonic = m := by
  cases m <;> rfl

theorem decode_of_code {r : Request} {m : Mnemonic} (h : m.code = r.op) : decode r = .ok (m.instr r.a r.b) := by
  simp [decode, mnemonicOfCode_eq_some_iff.mpr h]

theorem decode_of_reserved {r : Request} (h : r.op ∈ reservedCodes) : decode r = .error (.reservedCode r.op) := by
  simp [decode, (mnemonicOfCode_eq_none_iff r.op).mpr h]

/-- R57: a code that is not reserved is an operation's. -/
theorem exists_code_of_not_reserved {op : BitVec 5} (h : op ∉ reservedCodes) : ∃ m : Mnemonic, m.code = op := by
  obtain ⟨m, hm⟩ := Option.ne_none_iff_exists'.mp fun hn => h ((mnemonicOfCode_eq_none_iff op).mp hn)
  exact ⟨m, mnemonicOfCode_eq_some_iff.mp hm⟩

/-- R46: no two operations share a code. -/
theorem Mnemonic.code_injective {m m' : Mnemonic} (h : m.code = m'.code) : m = m' :=
  Option.some.inj (by rw [← mnemonicOfCode_code m, h, mnemonicOfCode_code])

/-- R57: a request decodes to an operation on some operands exactly when it has the operation's code. -/
theorem decode_eq_instr_iff {r : Request} {m : Mnemonic} : (∃ a b, decode r = .ok (m.instr a b)) ↔ r.op = m.code := by
  constructor
  · rintro ⟨a, b, hd⟩
    by_cases hres : r.op ∈ reservedCodes
    · rw [decode_of_reserved hres] at hd
      cases hd
    · obtain ⟨m', hm'⟩ := exists_code_of_not_reserved hres
      rw [decode_of_code hm'] at hd
      have hi : m'.instr r.a r.b = m.instr a b := Except.ok.inj hd
      obtain rfl : m' = m := by simpa using congrArg Instr.mnemonic hi
      exact hm'.symm
  · exact fun h => ⟨r.a, r.b, decode_of_code h.symm⟩

end Sys2Proof
end

section
/-! PROOFS. The operation map is total, split by group or not, and the rows of the table are its operations
(30_encoding.md R45, R47, R57). -/

namespace Sys2Proof

/-- Settles O3: a code that is not reserved is an operation's, and no other operation's. -/
theorem decodingIsTotal : Obligations.DecodingIsTotal := by
  intro r
  by_cases hres : r.op ∈ reservedCodes
  · exact .inl ⟨hres, decode_of_reserved hres⟩
  · obtain ⟨m, hm⟩ := exists_code_of_not_reserved hres
    exact .inr ⟨hres, m, hm, decode_of_code hm, fun _ hm' => Mnemonic.code_injective (hm'.trans hm.symm)⟩

/-- Settles O4, over the 32 codes. -/
theorem groupSplitIsFlatTable : Obligations.GroupSplitIsFlatTable := by
  unfold Obligations.GroupSplitIsFlatTable
  decide

/-- Settles O5: the row compares the operation select of the word's request, and so does the decoder. -/
theorem tableRowMatchesItsOperation : Obligations.TableRowMatchesItsOperation := by
  intro w m
  calc m.matchesWord w = true
      ↔ m.matchesWord (Request.ofWord w).toWord = true := by rw [toWord_ofWord]
    _ ↔ (Request.ofWord w).op = m.code := matchesWord_toWord m (Request.ofWord w)
    _ ↔ ∃ a b, decodeWord w = .ok (m.instr a b) := decode_eq_instr_iff.symm

end Sys2Proof
end

section
/-! SUPPORT. What the operations read of their operands (30_encoding.md R48, R49). -/

namespace Sys2Proof

/-- Agreeing second operands are the same where ignored bits are 0. -/
theorem Mnemonic.encodeB_eq_of_agree {m : Mnemonic} {a b a' b' : WordPair} (h : m.reads.agree a b a' b' = true) :
    m.encodeB b = m.encodeB b' := by
  unfold Mnemonic.encodeB
  cases hr : m.reads with
  | pairPair =>
    have hab : a = a' ∧ b = b' := by simpa [hr, Reads.agree] using h
    exact hab.2
  | pairWord =>
    have hab : a = a' ∧ b.lo = b'.lo := by simpa [hr, Reads.agree] using h
    rw [hab.2]
  | pairOnly => rfl
  | wordOnly => rfl

/-- Agreeing first operands are the same for every operation but CVTF2U, which reads A.lo only. -/
theorem Mnemonic.opA_eq_of_agree {m : Mnemonic} {a b a' b' : WordPair} (h : m.reads.agree a b a' b' = true) :
    a = a' ∨ (m = .cvtf2u ∧ a.lo = a'.lo) := by
  cases hr : m.reads with
  | pairPair =>
    have hab : a = a' ∧ b = b' := by simpa [hr, Reads.agree] using h
    exact .inl hab.1
  | pairWord =>
    have hab : a = a' ∧ b.lo = b'.lo := by simpa [hr, Reads.agree] using h
    exact .inl hab.1
  | pairOnly => exact .inl (by simpa [hr, Reads.agree] using h)
  | wordOnly =>
    have hm : m = .cvtf2u := by cases m <;> simp [Mnemonic.reads] at hr ⊢
    exact .inr ⟨hm, by simpa [hr, Reads.agree] using h⟩

namespace Machine

/-- R49: the bits of B that the assembler writes as 0 are read by no operation. -/
theorem exec_encodeB (m : Mnemonic) (a b : WordPair) (s : State) :
    exec (m.instr a (m.encodeB b)) s = exec (m.instr a b) s := by
  cases m <;> rfl

/-- R53: CVTF2U reads A.lo only. -/
theorem exec_cvtf2u_of_lo_eq {a a' : WordPair} (h : a.lo = a'.lo) (b b' : WordPair) (s : State) :
    exec (.cvtf2u a b) s = exec (.cvtf2u a' b') s := by
  rw [exec_cvtf2u, exec_cvtf2u, floatOperand, floatOperand, h]

/-- R49: an operation means the same on operands that agree on the bits it reads. -/
theorem exec_eq_of_agree {m : Mnemonic} {a b a' b' : WordPair} (h : m.reads.agree a b a' b' = true) (s : State) :
    exec (m.instr a b) s = exec (m.instr a' b') s := by
  rcases m.opA_eq_of_agree h with rfl | ⟨rfl, hlo⟩
  · rw [← exec_encodeB m a b, m.encodeB_eq_of_agree h, exec_encodeB]
  · exact exec_cvtf2u_of_lo_eq hlo b b' s

/-- A request of a code that is not reserved runs its operation (R57). -/
theorem step_of_code {s : State} {r : Request} {m : Mnemonic} (hr : s.request = some r) (hm : m.code = r.op) :
    step s = exec (m.instr r.a r.b) s :=
  step_of_decode_ok hr (decode_of_code hm)

end Machine

end Sys2Proof
end

section
/-! PROOFS. The block's answer depends neither on ignored bits nor on the host (30_encoding.md R49, R61). -/

namespace Sys2Proof.Machine

/-- Settles O22: a reserved code is answered by ILLEGAL_OP whatever the operands, and an operation means the same on
operands that agree on what it reads; the answer replaces the request that was issued. -/
theorem ignoredBitsNeverMatter : Obligations.IgnoredBitsNeverMatter := by
  intro s r r' hop hagree
  by_cases hres : r.op ∈ reservedCodes
  · exact ⟨_, step_of_decode_error (s.issue_request r) (decode_of_reserved hres),
      step_of_decode_error (s.issue_request r') (decode_of_reserved (hop ▸ hres))⟩
  · obtain ⟨m, hm⟩ := exists_code_of_not_reserved hres
    have hread := hagree m (mnemonicOfCode_eq_some_iff.mpr hm)
    obtain ⟨x, hx⟩ := exec_answers (m.instr r.a r.b)
    refine ⟨(s.issue r).answer x, ?_, ?_⟩
    · rw [step_of_code (s.issue_request r) hm, hx]
    · rw [step_of_code (s.issue_request r') (hm.trans hop), ← exec_eq_of_agree hread, hx, s.answer_issue r' r]

/-- Settles O58: the answer to a request is the same in every state, and it writes no field of the host. -/
theorem blockNeverSeesTheHost : Obligations.BlockNeverSeesTheHost := by
  intro s h r hr
  obtain ⟨x, hx⟩ := step_answers r
  exact ⟨s.answer x, hx s hr, hx { s with host := h } hr⟩

end Sys2Proof.Machine
end

section
/-! SUPPORT. The turns of a running host, one equation per case (30_encoding.md R61), and the acts from outside on the
invariant (10_state.md R33, 70_reset_and_hazards.md R122). -/

namespace Sys2Proof.Machine

/-- The host receives the response that is there. -/
theorem hostStep_of_response {s : State} {dst : Nat} {x : Response} (hrun : s.host.status = .running)
    (ha : s.host.awaiting = some dst) (hx : s.response = some x) : hostStep s = .next (s.receive dst x) := by
  simp [hostStep, hrun, ha, hx]

/-- A running host that waits for nothing runs the well-formed statement of its counter. -/
theorem hostStep_of_statement {s : State} {st : Stmt} (hrun : s.host.status = .running) (ha : s.host.awaiting = none)
    (hst : statementAt s.host.program s.host.counter = some st) (hw : st.wf s.host.program.length = true) :
    hostStep s = runStatement st s := by
  simp [hostStep, hrun, ha, runCounter, hst, hw]

/-- A request statement whose operands can be read issues its request. -/
theorem runStatement_request {s : State} {dst : Nat} {c : Call} {r : Request}
    (hc : assembleCall s.host.records c = .next r) : runStatement (.request dst c) s = .next (s.hostCall dst r) := by
  simp [runStatement, hc]

/-- A test of a record that is kept compares its output with the literal's value. -/
theorem testRecord_of_kept {records : List (Nat × Outputs)} {n : Nat} {f : Output} {v : Literal} {o : Outputs}
    {x : WordPair} (ho : getRecord n records = some o) (hv : literalValue v = some x) :
    testRecord records n f v = .next (decide (o.get f = x)) := by
  simp [testRecord, operandValue, ho, hv]

/-- A test of a record never kept is a read of no response (10_state.md R32). -/
theorem testRecord_of_not_kept {records : List (Nat × Outputs)} {n : Nat} (ho : getRecord n records = none)
    (f : Output) (v : Literal) : testRecord records n f v = .fault .noResponseToRead := by
  simp [testRecord, operandValue, ho, andThen]

/-- Keeping presets one after the other keeps the canonical form. -/
theorem recordsWf_foldl_putRecord (presets : List (Nat × WordPair)) (l : List (Nat × Outputs))
    (hl : recordsWf l = true) :
    recordsWf (presets.foldl (fun acc r => putRecord r.1 (presetRecord r.2) acc) l) = true := by
  induction presets generalizing l with
  | nil => exact hl
  | cons r rest ih => exact ih _ (recordsWf_putRecord _ _ _ hl)

/-- Placing a program keeps the invariant: its records are the presets, and it has not ended or issued. -/
theorem State.Inv.loadProgram {s : State} (hs : s.Inv) (p : List Stmt) (presets : List (Nat × WordPair)) :
    (s.loadProgram p presets).Inv where
  records_wf := recordsWf_foldl_putRecord presets [] rfl
  handshake := hs.handshake
  fault_kept := hs.fault_kept
  faulted_kept c hc := by cases hc
  awaiting_ok n hn := by cases hn

/-- Issuing keeps the invariant: the response to the request before is removed. -/
theorem State.Inv.issue {s : State} (hs : s.Inv) (r : Request) : (s.issue r).Inv where
  records_wf := hs.records_wf
  handshake := .inr rfl
  fault_kept c hc := by cases hc
  faulted_kept := hs.faulted_kept
  awaiting_ok := hs.awaiting_ok

/-- A reset keeps the invariant: the host, which is not reset, may go on waiting. -/
theorem State.Inv.applyReset {s : State} (hs : s.Inv) : s.applyReset.Inv where
  records_wf := hs.records_wf
  handshake := .inl rfl
  fault_kept c hc := by cases hc
  faulted_kept := hs.faulted_kept
  awaiting_ok := hs.awaiting_ok

end Sys2Proof.Machine
end

section
/-! PROOFS. The host and its program (30_encoding.md R61). -/

namespace Sys2Proof.Machine

/-- Settles O55: each act from outside keeps the invariant; `hostIssue` and a table word are issues. -/
theorem outsideActsKeepGoodState : Obligations.OutsideActsKeepGoodState := by
  intro s hs
  refine ⟨fun p presets => ⟨hs.loadProgram p presets, rfl, rfl⟩, fun r => ⟨hs.issue r, ?_⟩,
    fun nbits w => hs.issue (requestOfTableWord nbits w), hs.applyReset⟩
  intro t ht
  obtain ⟨-, rfl⟩ := hostIssue_next ht
  exact hs.issue r

/-- Settles O56: the host issues, the block gives the request's response, and the host receives it; receiving an OK
response keeps it, receiving a fault ends the program. -/
theorem hostRequestStatementRoundTrip : Obligations.HostRequestStatementRoundTrip := by
  intro s dst c r hreq hrun ha hst hw hc
  obtain ⟨x, hx⟩ := step_answers r
  have hissue : step s = .next (s.hostCall dst r) := by
    rw [step_of_no_request hreq, hostStep_of_statement hrun ha hst hw, runStatement_request hc]
  have hreceive : step ((s.hostCall dst r).answer x) = .next (((s.hostCall dst r).answer x).receive dst x) := by
    rw [step_of_no_request (State.answer_request _ x)]
    exact hostStep_of_response hrun rfl (State.answer_response _ x)
  refine ⟨s.hostCall dst r, (s.hostCall dst r).answer x, ((s.hostCall dst r).answer x).receive dst x, x, hissue, rfl,
    rfl, hx _ rfl, rfl, rfl, hreceive, ?_⟩
  cases x with
  | ok o =>
    refine ⟨rfl, rfl, ?_, fun f hf => (by cases hf)⟩
    intro o' ho
    obtain rfl : o = o' := Response.ok.inj ho
    exact ⟨getRecord_putRecord_self dst o s.host.records,
      fun k hk => getRecord_putRecord_other hk o s.host.records, rfl, hrun⟩
  | fault f =>
    refine ⟨rfl, rfl, fun o ho => (by cases ho), ?_⟩
    intro f' hf
    obtain rfl : f = f' := Response.fault.inj hf
    refine ⟨rfl, rfl, rfl, fun hdone => (by cases hdone), ?_⟩
    rw [step_of_no_request rfl]
    exact hostStep_of_not_running fun h => by cases h

/-- Settles O57: with nothing outstanding or awaited the step is the statement's, case by case. -/
theorem hostControlStatements : Obligations.HostControlStatements := by
  intro s st hreq hrun ha hst hw
  have hstep : step s = runStatement st s := by
    rw [step_of_no_request hreq, hostStep_of_statement hrun ha hst hw]
  rw [hstep]
  refine ⟨?ifEq, ?ifNe, ?notKept, ?goto, ?halt, ?nop⟩
  case ifEq =>
    rintro n f v l o x rfl ho hv
    simp [runStatement, testRecord_of_kept ho hv, State.goTo]
  case ifNe =>
    rintro n f v l o x rfl ho hv
    simp [runStatement, testRecord_of_kept ho hv, State.goTo]
  case notKept =>
    rintro n f v l (rfl | rfl) ho
    · simp [runStatement, testRecord_of_not_kept ho, andThen]
    · simp [runStatement, testRecord_of_not_kept ho, andThen]
  case goto => rintro l rfl; rfl
  case halt => rintro rfl; rfl
  case nop => rintro rfl; rfl

end Sys2Proof.Machine
end

section
/-! SUPPORT. The results that pseudo-instructions take: words as pairs, rotation amounts modulo 128, signed arithmetic
modulo 2^128, and the tests of 46_comparator.md R96 on a three-way result. -/

namespace Sys2Proof

/-- A number below 2^64 stands in the low word. -/
theorem w128_of_lt_word {n : Nat} (h : n < 2 ^ 64) : w128 n = ⟨0, w64 n⟩ := by
  apply WordPair.u_injective
  rw [u_w128_of_lt (by omega), u_mk, toNat_w64_of_lt h]
  simp

/-- A rotation amount encoded in a word keeps its residue modulo 128 (R52). -/
theorem s64_w64_emod (v : Int) : s64 (w64 v) % 128 = v % 128 := by
  have h := s64_emod (w64 v)
  rw [toNat_w64] at h
  omega

namespace Machine

/-- R90: only the amount modulo 128 matters. -/
theorem rotl128_congr (a : WordPair) {k k' : Int} (h : k % 128 = k' % 128) : rotl128 a k = rotl128 a k' := by
  simp only [rotl128, h]

/-- R67: the sum of the signed readings, modulo 2^128. -/
theorem add128_signed (a b : WordPair) : (add128 a b).1 = w128 (a.s + b.s) := by
  rw [eq_w128_iff, (add128_law a b).1, Int.add_emod, a.s_emod, b.s_emod]
  push_cast
  rfl

/-- R72: the difference of the signed readings, modulo 2^128. -/
theorem sub128_signed (a b : WordPair) : (sub128 a b).1 = w128 (a.s - b.s) := by
  rw [eq_w128_iff, (sub128_law a b).1, Int.sub_emod a.s, a.s_emod, b.s_emod]

/-- R76: the product of the signed readings, modulo 2^128. -/
theorem mul128_signed (a b : WordPair) : mul128 a b = w128 (a.s * b.s) := by
  rw [eq_w128_iff, mul128_law a b, Int.mul_emod, a.s_emod, b.s_emod]
  push_cast
  rfl

/-! R96: on the three-way result of an order, the tests are the order's. -/

section
variable {α : Type} [LinearOrder α] (x y : α)

theorem equalOf_compare : equalOf (comparePair (compare x y)) = decide (x = y) := by
  have h : ∀ o, equalOf (comparePair o) = decide (o = .eq) := by decide
  simp only [h, compare_eq_iff_eq]

theorem lessThanOf_compare : lessThanOf (comparePair (compare x y)) = decide (x < y) := by
  have h : ∀ o, lessThanOf (comparePair o) = decide (o = .lt) := by decide
  simp only [h, compare_lt_iff_lt]

theorem greaterThanOf_compare : greaterThanOf (comparePair (compare x y)) = decide (y < x) := by
  have h : ∀ o, greaterThanOf (comparePair o) = decide (o = .gt) := by decide
  simp only [h, compare_gt_iff_gt]

theorem lessOrEqualOf_compare : lessOrEqualOf (comparePair (compare x y)) = decide (x ≤ y) := by
  rw [lessOrEqualOf, greaterThanOf_compare, ← decide_not, decide_eq_decide, not_lt]

theorem greaterOrEqualOf_compare : greaterOrEqualOf (comparePair (compare x y)) = decide (y ≤ x) := by
  rw [greaterOrEqualOf, lessThanOf_compare, ← decide_not, decide_eq_decide, not_lt]

end

/-- Equality of the unsigned readings is equality of the pairs (R9). -/
theorem equalOf_compare_u (a b : WordPair) : equalOf (comparePair (compare a.u b.u)) = decide (a = b) := by
  rw [equalOf_compare, decide_eq_decide]
  exact ⟨WordPair.u_injective, congrArg WordPair.u⟩

/-- R94: CMPU answers with the three-way result of the unsigned order. -/
theorem exec_cmpu_compare (a b : WordPair) (s : State) :
    exec (.cmpu a b) s = .next (s.answer (.ok (.value (comparePair (compare a.u b.u))))) := by
  rw [exec_cmpu, compareUnsigned_law]

/-- R93: CMPS answers with the three-way result of the signed order. -/
theorem exec_cmps_compare (a b : WordPair) (s : State) :
    exec (.cmps a b) s = .next (s.answer (.ok (.value (comparePair (compare a.s b.s))))) := by
  rw [exec_cmps, compareSigned_law]

/-- R58: an operation written by mnemonic decodes to that operation, ignored bits of B being 0. -/
theorem decode_assembleOp (m : Mnemonic) (a b : WordPair) :
    decode (assembleOp m a b) = .ok (m.instr a (m.encodeB b)) :=
  decode_of_code rfl

end Machine

end Sys2Proof
end

section
/-! PROOFS. The pseudo-instructions (30_encoding.md R60). -/

namespace Sys2Proof.Machine

open Sys2Proof.Claims

/-- The operation of a pseudo-instruction completes with outputs from which the expected value or test is taken. -/
theorem exec_pseudo (p : Pseudo) (a b : WordPair) (hquo : p = .quo ∨ p = .rem → b ≠ zeroPair)
    (hquo64 : p = .quo64 ∨ p = .rem64 → b.lo ≠ 0) (s : State) :
    ∃ o, exec ((pseudoBase p).instr a (pseudoOperand p b)) s = .next (s.answer (.ok o)) ∧
      pseudoResult p o = pseudoExpected p a b := by
  have hu : b ≠ zeroPair → b.u ≠ 0 := mt (u_eq_zero_iff b).mp
  have hlo : b.lo ≠ 0 → b.lo.toNat ≠ 0 := fun h h0 => h (BitVec.eq_of_toNat_eq h0)
  cases p with
  | quo => exact ⟨_, exec_divu a b s (hu (hquo (.inl rfl))), rfl⟩
  | rem => exact ⟨_, exec_divu a b s (hu (hquo (.inr rfl))), rfl⟩
  | quo64 => exact ⟨_, exec_divu64 a b s (hlo (hquo64 (.inl rfl))), rfl⟩
  | rem64 =>
    have hb := hlo (hquo64 (.inr rfl))
    have hrem : a.u % b.lo.toNat < 2 ^ 64 := (Nat.mod_lt _ (Nat.pos_of_ne_zero hb)).trans b.lo.isLt
    exact ⟨_, exec_divu64 a b s hb, congrArg PseudoResult.value (w128_of_lt_word hrem).symm⟩
  | rotr => exact ⟨_, exec_rotl _ _ s, congrArg PseudoResult.value (rotl128_congr a (s64_w64_emod _))⟩
  | adds => exact ⟨_, exec_add a b s, congrArg PseudoResult.value (add128_signed a b)⟩
  | subs => exact ⟨_, exec_sub a b s, congrArg PseudoResult.value (sub128_signed a b)⟩
  | muls => exact ⟨_, exec_mul a b s, congrArg PseudoResult.value (mul128_signed a b)⟩
  | eq => exact ⟨_, exec_cmpu_compare a b s, congrArg PseudoResult.test (equalOf_compare_u a b)⟩
  | ne =>
    have hne : (!equalOf (comparePair (compare a.u b.u))) = decide (a ≠ b) := by rw [equalOf_compare_u, decide_not]
    exact ⟨_, exec_cmpu_compare a b s, congrArg PseudoResult.test hne⟩
  | ltu => exact ⟨_, exec_cmpu_compare a b s, congrArg PseudoResult.test (lessThanOf_compare _ _)⟩
  | leu => exact ⟨_, exec_cmpu_compare a b s, congrArg PseudoResult.test (lessOrEqualOf_compare _ _)⟩
  | gtu => exact ⟨_, exec_cmpu_compare a b s, congrArg PseudoResult.test (greaterThanOf_compare _ _)⟩
  | geu => exact ⟨_, exec_cmpu_compare a b s, congrArg PseudoResult.test (greaterOrEqualOf_compare _ _)⟩
  | lts => exact ⟨_, exec_cmps_compare a b s, congrArg PseudoResult.test (lessThanOf_compare _ _)⟩
  | les => exact ⟨_, exec_cmps_compare a b s, congrArg PseudoResult.test (lessOrEqualOf_compare _ _)⟩
  | gts => exact ⟨_, exec_cmps_compare a b s, congrArg PseudoResult.test (greaterThanOf_compare _ _)⟩
  | ges => exact ⟨_, exec_cmps_compare a b s, congrArg PseudoResult.test (greaterOrEqualOf_compare _ _)⟩

/-- Settles O59: the expansion decodes to its operation, which reads the encoded operand as the one written. -/
theorem pseudoInstructionsTakeTheirResult : Obligations.PseudoInstructionsTakeTheirResult := by
  intro s p a b hquo hquo64
  obtain ⟨o, hexec, hresult⟩ := exec_pseudo p a b hquo hquo64 s
  exact ⟨_, o, decode_assembleOp _ _ _, (exec_encodeB _ _ _ s).trans hexec, hresult⟩

end Sys2Proof.Machine
end

section
/-! SUPPORT. The patterns of `f64(x)` as numbers: a pattern packed from its fields, then the pattern of a dyadic
(30_encoding.md R59, 47_converters.md R97, R98). -/

namespace Sys2Proof

/-- R97: the fields of `sign ‖ E ‖ F`. -/
theorem f64Fields_f64Pack (neg : Bool) {E F : Nat} (hE : E < 2 ^ 11) (hF : F < 2 ^ 52) :
    f64Fields (f64Pack neg E F) = ⟨neg, E, F⟩ := by
  have hsign : (if neg then 2 ^ 63 else 0) = neg.toNat * 2 ^ 63 := by cases neg <;> rfl
  obtain ⟨n, hn⟩ : ∃ n, n = neg.toNat * 2 ^ 63 + E * 2 ^ 52 + F := ⟨_, rfl⟩
  have hneg := neg.toNat_lt
  have hlt : n < 2 ^ 64 := by omega
  have hS' : n / 2 ^ 63 = neg.toNat := by omega
  have hE' : n / 2 ^ 52 % 2 ^ 11 = E := by omega
  have hF' : n % 2 ^ 52 = F := by omega
  have hword : (BitVec.ofNat 64 n).toNat = n := by rw [BitVec.toNat_ofNat, Nat.mod_eq_of_lt hlt]
  have hbit : (BitVec.ofNat 64 n).getLsbD 63 = neg := by
    rw [← BitVec.testBit_toNat, hword, Nat.testBit_eq_decide_div_mod_eq, hS']
    cases neg <;> rfl
  rw [f64Pack, hsign, ← hn]
  simp only [f64Fields, hbit, hword, hE', hF']

/-- R98: a zero or a subnormal of either sign. -/
theorem f64Value_f64Pack_subnormal (neg : Bool) {F : Nat} (hF : F < 2 ^ 52) :
    f64Value (f64Pack neg 0 F) = .finite neg F (-1074) := by
  simp [f64Value, f64Fields_f64Pack neg (show 0 < 2 ^ 11 by decide) hF]

/-- R98: a normal of either sign, from its significand of 53 bits and the exponent of its leading bit. -/
theorem f64Value_f64Pack_normal (neg : Bool) {top : Int} {M : Nat} (hlo : -1022 ≤ top) (hhi : top ≤ 1023)
    (hM : 2 ^ 52 ≤ M ∧ M < 2 ^ 53) :
    f64Value (f64Pack neg (top + 1023).toNat (M - 2 ^ 52)) = .finite neg M (top - 52) := by
  obtain ⟨E, hE⟩ := Int.eq_ofNat_of_zero_le (show 0 ≤ top + 1023 by omega)
  rw [hE, Int.toNat_natCast]
  simp only [f64Value, f64Fields_f64Pack neg (show E < 2 ^ 11 by omega) (show M - 2 ^ 52 < 2 ^ 52 by omega)]
  rw [if_neg (by omega), if_neg (by omega), Nat.add_sub_cancel' hM.1]
  congr 1
  omega

/-- A power of two moves from the integer into the exponent without changing the number. -/
theorem toRat_finite_mul_two_pow (neg : Bool) (m k : Nat) (e : Int) :
    (F64Value.finite neg (m * 2 ^ k) e).toRat = (F64Value.finite neg m (e + k)).toRat := by
  simp only [F64Value.toRat]
  rw [zpow_add₀ two_ne_zero, zpow_natCast]
  push_cast
  congr 1
  ring

/-- The same for a power of two that divides the integer. -/
theorem toRat_finite_div_two_pow (neg : Bool) {m k : Nat} (h : m % 2 ^ k = 0) (e : Int) :
    (F64Value.finite neg (m / 2 ^ k) (e + k)).toRat = (F64Value.finite neg m e).toRat := by
  rw [← toRat_finite_mul_two_pow, Nat.div_mul_cancel (Nat.dvd_of_mod_eq_zero h)]

/-- A nonzero integer of at most 53 bits, scaled up to 53 bits. -/
theorem scaled_bounds {m : Nat} (hm : m ≠ 0) (h : bitlen m ≤ 53) :
    2 ^ 52 ≤ m * 2 ^ (53 - bitlen m) ∧ m * 2 ^ (53 - bitlen m) < 2 ^ 53 := by
  constructor
  · simpa [rneSignificand_of_le h] using (rneSignificand_bounds hm).1
  · calc m * 2 ^ (53 - bitlen m) < 2 ^ bitlen m * 2 ^ (53 - bitlen m) :=
          Nat.mul_lt_mul_of_pos_right (lt_two_pow_bitlen m) (Nat.two_pow_pos _)
      _ = 2 ^ 53 := by rw [← pow_add]; congr 1; omega

/-- The integer of a subnormal at the exponent -1074, scaled up from a larger exponent, fits the fraction. -/
theorem subnormal_scaled_up_lt {m k : Nat} (h : bitlen m + k ≤ 52) : m * 2 ^ k < 2 ^ 52 := by
  calc m * 2 ^ k < 2 ^ bitlen m * 2 ^ k := Nat.mul_lt_mul_of_pos_right (lt_two_pow_bitlen m) (Nat.two_pow_pos k)
    _ ≤ 2 ^ 52 := by rw [← pow_add]; exact Nat.pow_le_pow_right two_pos h

/-- The same, scaled down from a smaller exponent. -/
theorem subnormal_scaled_down_lt {m k : Nat} (h : bitlen m ≤ 52 + k) : m / 2 ^ k < 2 ^ 52 := by
  rw [Nat.div_lt_iff_lt_mul (Nat.two_pow_pos k), ← pow_add]
  exact (bitlen_le_iff m (52 + k)).mp h

section
variable (neg : Bool) {m : Nat} {e : Int}

/-- R98: the normal of an integer of at most 53 bits denotes it. -/
theorem toRat_normal_scaled_up (hm : m ≠ 0) (hn : bitlen m ≤ 53) (hlo : -1022 ≤ (bitlen m : Int) - 1 + e)
    (hhi : (bitlen m : Int) - 1 + e ≤ 1023) :
    (f64Value (f64Pack neg ((bitlen m : Int) - 1 + e + 1023).toNat (m * 2 ^ (53 - bitlen m) - 2 ^ 52))).toRat =
      (F64Value.finite neg m e).toRat := by
  have hexp : (bitlen m : Int) - 1 + e - 52 + (53 - bitlen m : Nat) = e := by omega
  rw [f64Value_f64Pack_normal neg hlo hhi (scaled_bounds hm hn), toRat_finite_mul_two_pow, hexp]

/-- R98: the normal of an integer of more than 53 bits denotes it, where the bits dropped are 0. -/
theorem toRat_normal_scaled_down (hn : 53 < bitlen m) (hdvd : m % 2 ^ (bitlen m - 53) = 0)
    (hlo : -1022 ≤ (bitlen m : Int) - 1 + e) (hhi : (bitlen m : Int) - 1 + e ≤ 1023) :
    (f64Value (f64Pack neg ((bitlen m : Int) - 1 + e + 1023).toNat (m / 2 ^ (bitlen m - 53) - 2 ^ 52))).toRat =
      (F64Value.finite neg m e).toRat := by
  have hexp : (bitlen m : Int) - 1 + e - 52 = e + (bitlen m - 53 : Nat) := by omega
  rw [f64Value_f64Pack_normal neg hlo hhi (top_bits_bounds hn.le), hexp, toRat_finite_div_two_pow neg hdvd]

/-- R98: a subnormal at the exponent -1074 denotes the number with an exponent that is not smaller. -/
theorem toRat_subnormal_scaled_up (htop : (bitlen m : Int) - 1 + e < -1022) (hk : 0 ≤ e + 1074) :
    (f64Value (f64Pack neg 0 (m * 2 ^ (e + 1074).toNat))).toRat = (F64Value.finite neg m e).toRat := by
  have hexp : -1074 + ((e + 1074).toNat : Int) = e := by omega
  rw [f64Value_f64Pack_subnormal neg (subnormal_scaled_up_lt (by omega)), toRat_finite_mul_two_pow, hexp]

/-- R98: a subnormal at the exponent -1074 denotes the number with a smaller exponent, where the bits dropped are 0. -/
theorem toRat_subnormal_scaled_down (htop : (bitlen m : Int) - 1 + e < -1022) (hk : e + 1074 < 0)
    (hdvd : m % 2 ^ (-(e + 1074)).toNat = 0) :
    (f64Value (f64Pack neg 0 (m / 2 ^ (-(e + 1074)).toNat))).toRat = (F64Value.finite neg m e).toRat := by
  have hexp : (-1074 : Int) = e + ((-(e + 1074)).toNat : Int) := by omega
  rw [f64Value_f64Pack_subnormal neg (subnormal_scaled_down_lt (by omega)),
    ← toRat_finite_div_two_pow neg hdvd, ← hexp]

end

/-- R59, R98: where the assembler gives a pattern for `(-1)^neg * m * 2^e`, the pattern denotes that number: as a zero,
as a normal, or as a subnormal. -/
theorem f64OfDyadic_toRat {neg : Bool} {m : Nat} {e : Int} {bits : Word} (h : f64OfDyadic neg m e = some bits) :
    (f64Value bits).toRat = (F64Value.finite neg m e).toRat := by
  simp only [f64OfDyadic] at h
  split at h
  · next hm =>
    obtain rfl := Option.some.inj h
    rw [f64Value_f64Pack_subnormal neg (by decide), hm]
    simp [F64Value.toRat]
  next hm =>
  split at h
  · cases h
  next hhi =>
  split at h
  · next hlo =>
    split at h
    · next hn =>
      obtain rfl := Option.some.inj h
      exact toRat_normal_scaled_up neg hm hn hlo (not_lt.mp hhi)
    · next hn =>
      split at h
      · next hdvd =>
        obtain rfl := Option.some.inj h
        exact toRat_normal_scaled_down neg (not_le.mp hn) hdvd hlo (not_lt.mp hhi)
      · cases h
  · next hlo =>
    split at h
    · next hk =>
      obtain rfl := Option.some.inj h
      exact toRat_subnormal_scaled_up neg (not_le.mp hlo) hk
    · next hk =>
      split at h
      · next hdvd =>
        obtain rfl := Option.some.inj h
        exact toRat_subnormal_scaled_down neg (not_le.mp hlo) (not_le.mp hk) hdvd
      · cases h

/-- The number a decimal of a non-negative exponent denotes: an integer. -/
theorem Decimal.toRat_of_exp_nonneg {x : Decimal} (h : 0 ≤ x.exp) :
    (F64Value.finite x.neg (x.digits * 10 ^ x.exp.toNat) 0).toRat = some x.toRat := by
  obtain ⟨n, hn⟩ := Int.eq_ofNat_of_zero_le h
  simp only [F64Value.toRat, Decimal.toRat, hn, Int.toNat_natCast, zpow_natCast, zpow_zero, mul_one]
  push_cast
  rw [mul_assoc]

/-- The number a decimal of a negative exponent denotes, where the fives of the denominator divide its digits: a
dyadic. -/
theorem Decimal.toRat_of_exp_neg {x : Decimal} (h : x.exp < 0) (hdvd : x.digits % 5 ^ (-x.exp).toNat = 0) :
    (F64Value.finite x.neg (x.digits / 5 ^ (-x.exp).toNat) x.exp).toRat = some x.toRat := by
  obtain ⟨n, hn⟩ := Int.eq_ofNat_of_zero_le (show 0 ≤ -x.exp by omega)
  obtain ⟨q, hq⟩ := Nat.dvd_of_mod_eq_zero hdvd
  rw [hn, Int.toNat_natCast] at hq ⊢
  have hexp : x.exp = -(n : Int) := by omega
  have hten : (10 : ℚ) ^ (-(n : Int)) = ((5 : ℚ) ^ n)⁻¹ * 2 ^ (-(n : Int)) := by
    rw [zpow_neg, zpow_neg, zpow_natCast, zpow_natCast, ← mul_inv, ← mul_pow]
    norm_num
  have hdiv : 5 ^ n * q / 5 ^ n = q := Nat.mul_div_cancel_left q (by positivity)
  simp only [F64Value.toRat, Decimal.toRat, hq, hexp, hten, hdiv]
  push_cast
  congr 1
  field_simp

end Sys2Proof
end

section
/-! PROOFS. The operand form `f64(x)` (30_encoding.md R59). -/

namespace Sys2Proof

/-- Settles O60: a decimal is an integer or, its fives divided out, a dyadic, and the pattern of a dyadic denotes it. -/
theorem f64OperandHasItsValue : Obligations.F64OperandHasItsValue := by
  intro x bits h
  simp only [f64OfDecimal] at h
  split at h
  · next hexp => exact (f64OfDyadic_toRat h).trans (Decimal.toRat_of_exp_nonneg hexp)
  · next hexp =>
    split at h
    · next hdvd => exact (f64OfDyadic_toRat h).trans (Decimal.toRat_of_exp_neg (not_le.mp hexp) hdvd)
    · cases h

end Sys2Proof
end

section
/-! SUPPORT. The adder on the unsigned readings (40_adder.md R63, R65, R66), and the signed reading as the balanced
residue of the unsigned one (00_scope.md R9, R23). -/

namespace Sys2Proof

/-- A sum with a word leaves 128 bits exactly when the carry out of the low words runs through a high word of ones. -/
theorem WordPair.two_pow_le_u_add_word_iff (x : WordPair) (w : Word) :
    2 ^ 128 ≤ x.u + w.toNat ↔ x.hi = 0xFFFFFFFFFFFFFFFF ∧ 2 ^ 64 ≤ x.lo.toNat + w.toNat := by
  have hhi := x.hi.isLt
  have hlo := x.lo.isLt
  have hw := w.isLt
  have hones : x.hi = 0xFFFFFFFFFFFFFFFF ↔ x.hi.toNat = 2 ^ 64 - 1 := BitVec.toNat_inj.symm
  rw [hones, WordPair.u]
  omega

/-- Adding one leaves 128 bits exactly from MaxUint128. -/
theorem WordPair.two_pow_le_u_add_one_iff (x : WordPair) : 2 ^ 128 ≤ x.u + 1 ↔ x = maxUint128 := by
  have hx := x.u_lt
  constructor
  · intro h
    apply WordPair.u_injective
    rw [maxUint128_u]
    omega
  · rintro rfl
    rw [maxUint128_u]
    norm_num

/-- R9: the signed reading is the residue of the unsigned one in `[-2^127, 2^127 - 1]`. -/
theorem WordPair.s_eq_bmod_u (x : WordPair) : x.s = (x.u : Int).bmod (2 ^ 128) := by
  have hx := x.u_lt
  rw [Int.bmod_def]
  rcases x.s_cases with ⟨-, hge, hs⟩ | ⟨-, hlt, hs⟩
  · rw [hs, if_neg (by omega)]
    omega
  · rw [hs, if_pos (by omega)]
    omega

/-- R9: `s(w128(v))` is v reduced into `[-2^127, 2^127 - 1]`. -/
theorem s_w128 (v : Int) : (w128 v).s = v.bmod (2 ^ 128) := by
  rw [WordPair.s_eq_bmod_u, u_w128]
  exact_mod_cast Int.emod_bmod v (2 ^ 128)

namespace Machine

/-- R50: the word operand reads as the word. -/
theorem wordOperand_u (b : WordPair) : (wordOperand b).u = b.lo.toNat := zext128_u b.lo

/-- R63: the carry chain as one pair, the wrapping sum and the exact carry. -/
theorem add128_eq (a b : WordPair) : add128 a b = (w128 (a.u + b.u : Nat), decide (2 ^ 128 ≤ a.u + b.u)) := by
  obtain ⟨hsum, hcarry⟩ := add128_law a b
  exact Prod.ext (WordPair.u_injective (hsum.trans (u_w128_nat _).symm)) hcarry

end Machine

end Sys2Proof
end

section
/-! PROOFS. The adder (40_adder.md R64 to R67), with the signed reading of the subtractor and the multiplier
(41_subtractor.md R72, 42_multiplier.md R76). -/

namespace Sys2Proof.Machine

/-- Settles O23: the carry chain on the two operands as they are. -/
theorem addIsWrappingSumWithCarry : Obligations.AddIsWrappingSumWithCarry := by
  intro s a b
  refine ⟨decode_of_code (m := .add) rfl, ?_⟩
  rw [exec_add, add128_eq]
  rfl

/-- Settles O24: the carry chain on A and the zero-extended word, which carries through A.hi or not at all. -/
theorem add64IsWrappingSumWithWord : Obligations.Add64IsWrappingSumWithWord := by
  intro s a b
  have hcarry := Bool.decide_congr (a.two_pow_le_u_add_word_iff b.lo)
  refine ⟨decode_of_code (m := .add64) rfl, ?_⟩
  rw [exec_add64, add128_eq, wordOperand_u, hcarry]
  rfl

/-- Settles O25: the carry chain on A and the pair `{0, 1}`. -/
theorem incAddsOne : Obligations.IncAddsOne := by
  intro s a b
  have hone : (⟨0, 1⟩ : WordPair).u = 1 := by decide
  have hcarry := Bool.decide_congr a.two_pow_le_u_add_one_iff
  refine ⟨decode_of_code (m := .inc) rfl, ?_⟩
  rw [exec_inc, add128_eq, hone, hcarry]
  rfl

/-- Settles O31: each result is `w128` of the operation on the signed readings. -/
theorem signedReadingOfAddSubMul : Obligations.SignedReadingOfAddSubMul := by
  intro s a b
  refine ⟨(add128 a b).1, (sub128 a b).1, mul128 a b, (add128 a b).2, (sub128 a b).2,
    exec_add a b s, exec_sub a b s, exec_mul a b s, ?_, ?_, ?_⟩
  · rw [add128_signed, s_w128]
  · rw [sub128_signed, s_w128]
  · rw [mul128_signed, s_w128]

end Sys2Proof.Machine
end

section
/-! SUPPORT. The subtractor on the unsigned readings (41_subtractor.md R68, R70, R71). -/

namespace Sys2Proof

/-- A word exceeds a pair exactly when the pair has no high word and the word exceeds its low one. -/
theorem WordPair.u_lt_word_iff (x : WordPair) (w : Word) :
    x.u < w.toNat ↔ x.hi = 0 ∧ x.lo.toNat < w.toNat := by
  have hw := w.isLt
  have hzero : x.hi = 0 ↔ x.hi.toNat = 0 := BitVec.toNat_inj.symm
  rw [hzero, WordPair.u]
  omega

theorem WordPair.u_lt_one_iff (x : WordPair) : x.u < 1 ↔ x = zeroPair :=
  Nat.lt_one_iff.trans (u_eq_zero_iff x)

theorem WordPair.u_one : (⟨0, 1⟩ : WordPair).u = 1 := by decide

namespace Machine

/-- R68: the borrow chain as one pair, the wrapping difference and the exact borrow. -/
theorem sub128_eq (a b : WordPair) : sub128 a b = (w128 ((a.u : Int) - b.u), decide (a.u < b.u)) := by
  obtain ⟨hdiff, hborrow⟩ := sub128_law a b
  exact Prod.ext ((eq_w128_iff _ _).mpr hdiff) hborrow

/-- The carry chain undoes the borrow chain, wrap-around included: both are exact modulo 2^128. -/
theorem add128_sub128_cancel (a b : WordPair) : (add128 (sub128 a b).1 b).1 = a := by
  have hadd := (add128_law (sub128 a b).1 b).1
  have hsub := (sub128_law a b).1
  have ha := a.u_lt
  apply WordPair.u_injective
  omega

end Machine

end Sys2Proof
end

section
/-! PROOFS. The subtractor (41_subtractor.md R69 to R71). -/

namespace Sys2Proof.Machine

/-- Settles O26: the borrow chain on the two operands as they are. -/
theorem subIsWrappingDifferenceWithBorrow : Obligations.SubIsWrappingDifferenceWithBorrow := by
  intro s a b
  refine ⟨decode_of_code (m := .sub) rfl, ?_⟩
  rw [exec_sub, sub128_eq]
  rfl

/-- Settles O27: the borrow chain on A and the zero-extended word, which borrows only where A.hi has nothing to lend. -/
theorem sub64SubtractsZeroExtendedWord : Obligations.Sub64SubtractsZeroExtendedWord := by
  intro s a b
  have hborrow := Bool.decide_congr (a.u_lt_word_iff b.lo)
  refine ⟨decode_of_code (m := .sub64) rfl, ?_⟩
  rw [exec_sub64, sub128_eq, wordOperand_u, hborrow]
  rfl

/-- Settles O28: the borrow chain on A and the pair `{0, 1}`, which INC's carry chain on the same pair undoes. -/
theorem decSubtractsOneAndIsUndoneByInc : Obligations.DecSubtractsOneAndIsUndoneByInc := by
  intro s a b
  have hborrow := Bool.decide_congr a.u_lt_one_iff
  have hdec : sub128 a ⟨0, 1⟩ = (w128 ((a.u : Int) - 1), decide (a = zeroPair)) := by
    rw [sub128_eq, WordPair.u_one, hborrow]
    rfl
  have hinc : (add128 (w128 ((a.u : Int) - 1)) ⟨0, 1⟩).1 = a := by
    simpa only [hdec] using add128_sub128_cancel a ⟨0, 1⟩
  refine ⟨decode_of_code (m := .dec) rfl, ?_, (add128 (w128 ((a.u : Int) - 1)) ⟨0, 1⟩).2, ?_⟩
  · rw [exec_dec, hdec]
    rfl
  · rw [exec_inc, hinc]
    rfl

end Sys2Proof.Machine
end

section
/-! SUPPORT. The multiplier on the unsigned readings (42_multiplier.md R73). -/

namespace Sys2Proof.Machine

/-- R73: the partial products as one pair, the wrapping product. -/
theorem mul128_eq (a b : WordPair) : mul128 a b = w128 (a.u * b.u : Nat) :=
  WordPair.u_injective ((mul128_law a b).trans (u_w128_nat _).symm)

end Sys2Proof.Machine
end

section
/-! PROOFS. The multiplier (42_multiplier.md R74, R75). -/

namespace Sys2Proof.Machine

/-- Settles O29: the partial products of the two operands as they are. -/
theorem mulIsLowProduct : Obligations.MulIsLowProduct := by
  intro s a b
  refine ⟨decode_of_code (m := .mul) rfl, ?_⟩
  rw [exec_mul, mul128_eq]
  rfl

/-- Settles O30: the partial products of A and the zero-extended word, whose reading B.hi does not enter. -/
theorem mul64IsLowProductWithWord : Obligations.Mul64IsLowProductWithWord := by
  intro s a b
  refine ⟨decode_of_code (m := .mul64) rfl, ?_⟩
  rw [exec_mul64, mul128_eq, wordOperand_u]
  rfl

end Sys2Proof.Machine
end

section
/-! SUPPORT. The divider on the unsigned readings (43_divider.md R77): the quotient and the remainder are the only pairs
that fit, and DIVU64 is DIVU by the zero-extended low word of B (R79, R84). -/

namespace Sys2Proof

theorem WordPair.lo_toNat_ne_zero {x : WordPair} (h : x.lo ≠ 0) : x.lo.toNat ≠ 0 :=
  fun h0 => h (BitVec.eq_of_toNat_eq h0)

/-- A pair that reads below 2^64 has no high word. -/
theorem WordPair.hi_eq_zero_of_u_lt {x : WordPair} (h : x.u < 2 ^ 64) : x.hi = 0 :=
  BitVec.eq_of_toNat_eq (x.u_hi.symm.trans (Nat.div_eq_of_lt h))

namespace Machine

/-- R50: a pair without a high word is its own word operand. -/
theorem wordOperand_of_hi_eq_zero {b : WordPair} (h : b.hi = 0) : wordOperand b = b := by
  obtain ⟨hi, lo⟩ := b
  obtain rfl : hi = 0 := h
  rfl

/-- R77: the two conditions on quotient and remainder fix DIVU's answer. -/
theorem exec_divu_of_quotient_remainder {a b q r : WordPair} (heq : a.u = b.u * q.u + r.u) (hlt : r.u < b.u)
    (s : State) : exec (.divu a b) s = .next (s.answer (.ok (.division q r))) := by
  have hpos : 0 < b.u := Nat.zero_lt_of_lt hlt
  obtain ⟨hquot, hrem⟩ := (Nat.div_mod_unique hpos).mpr ⟨(Nat.add_comm _ _).trans heq.symm, hlt⟩
  rw [exec_divu a b s hpos.ne', hquot, hrem, w128_u, w128_u]

/-- R77: for a nonzero divisor DIVU finds a quotient and a remainder, both of which fit in 128 bits. -/
theorem exec_divu_law (a : WordPair) {b : WordPair} (h : b.u ≠ 0) (s : State) :
    ∃ q r : WordPair, exec (.divu a b) s = .next (s.answer (.ok (.division q r))) ∧
      a.u = b.u * q.u + r.u ∧ r.u < b.u := by
  have hquot : (w128 (a.u / b.u : Nat)).u = a.u / b.u := u_w128_of_lt ((Nat.div_le_self _ _).trans_lt a.u_lt)
  have hrem : (w128 (a.u % b.u : Nat)).u = a.u % b.u := u_w128_of_lt ((Nat.mod_le _ _).trans_lt a.u_lt)
  refine ⟨_, _, exec_divu a b s h, ?_, ?_⟩
  · rw [hquot, hrem, Nat.div_add_mod]
  · rw [hrem]
    exact Nat.mod_lt _ (Nat.pos_of_ne_zero h)

/-- R79: DIVU64 is DIVU by the zero-extended word, its fault included: a remainder below a word fits the low word. -/
theorem exec_divu64_eq_divu (a b : WordPair) (s : State) :
    exec (.divu64 a b) s = exec (.divu a (wordOperand b)) s := by
  have hu := wordOperand_u b
  by_cases h : b.lo.toNat = 0
  · rw [exec_divu64_zero a b s h, exec_divu_zero a _ s (hu.trans h)]
  · have hrem : a.u % b.lo.toNat < 2 ^ 64 := (Nat.mod_lt _ (Nat.pos_of_ne_zero h)).trans b.lo.isLt
    rw [exec_divu64 a b s h, exec_divu a _ s (hu.trans_ne h), hu, w128_of_lt_word hrem]

end Machine

end Sys2Proof
end

section
/-! PROOFS. The divider (43_divider.md R79 to R84). -/

namespace Sys2Proof.Machine

/-- Settles O32: DIVU by the zero-extended word, whose remainder is below 2^64. -/
theorem divu64QuotientAndRemainder : Obligations.Divu64QuotientAndRemainder := by
  intro s a b hlo
  have hu := wordOperand_u b
  obtain ⟨q, r, hexec, heq, hlt⟩ := exec_divu_law a (hu.trans_ne (WordPair.lo_toNat_ne_zero hlo)) s
  rw [hu] at heq hlt
  exact ⟨decode_of_code (m := .divu64) rfl, q, r, (exec_divu64_eq_divu a b s).trans hexec, heq, hlt,
    WordPair.hi_eq_zero_of_u_lt (hlt.trans b.lo.isLt)⟩

/-- Settles O33: the law of the division, since only Zero reads as 0. -/
theorem divuQuotientAndRemainder : Obligations.DivuQuotientAndRemainder := by
  intro s a b hb
  exact ⟨decode_of_code (m := .divu) rfl, exec_divu_law a (mt (u_eq_zero_iff b).mp hb) s⟩

/-- Settles O35: three shortcuts name a quotient and a remainder that meet R77's two conditions; a power of two is a
divisor like any other. -/
theorem divisionShortcuts : Obligations.DivisionShortcuts := by
  intro s a b
  refine ⟨?one, ?powerOfTwo, ?equal, ?below⟩
  case one =>
    rintro rfl
    exact exec_divu_of_quotient_remainder
      (by rw [WordPair.u_one, zeroPair_u, Nat.one_mul, Nat.add_zero])
      (by rw [WordPair.u_one, zeroPair_u]; exact Nat.one_pos) s
  case powerOfTwo =>
    intro t ht
    rw [← ht]
    exact exec_divu a b s (ht.trans_ne (Nat.two_pow_pos t).ne')
  case equal =>
    rintro rfl hne
    have hpos : 0 < a.u := Nat.pos_of_ne_zero (mt (u_eq_zero_iff a).mp hne)
    exact exec_divu_of_quotient_remainder
      (by rw [WordPair.u_one, zeroPair_u, Nat.mul_one, Nat.add_zero])
      (by rwa [zeroPair_u]) s
  case below =>
    intro hlt
    exact exec_divu_of_quotient_remainder (by simp) hlt s

/-- Settles O36: a divisor of one word is its own zero-extended word, and DIVU answers OK for it. -/
theorem dividersAgreeOnWordDivisors : Obligations.DividersAgreeOnWordDivisors := by
  intro s a b hhi hlo
  have hself : wordOperand b = b := wordOperand_of_hi_eq_zero hhi
  have hu : b.u = b.lo.toNat := by rw [← wordOperand_u, hself]
  obtain ⟨q, r, hexec, -, -⟩ := exec_divu_law a (hu.trans_ne (WordPair.lo_toNat_ne_zero hlo)) s
  have hagree : exec (.divu64 a b) s = exec (.divu a b) s := by rw [exec_divu64_eq_divu, hself]
  exact ⟨q, r, hexec, hagree.trans hexec⟩

/-- Settles O34: each divider's fault arm, entered on the reading of its own divisor. -/
theorem divisionByZeroFaults : Obligations.DivisionByZeroFaults := by
  intro s a b
  refine ⟨exec_divu_zero a b s, ?_, rfl, rfl⟩
  intro hlo
  have hzero : b.lo.toNat = 0 := by rw [hlo]; rfl
  exact exec_divu64_zero a b s hzero

end Sys2Proof.Machine
end

section
/-! SUPPORT. The negation on either reading (44_negation.md R85), and undone by itself (R86). -/

namespace Sys2Proof.Machine

/-- R85: the negation of the unsigned reading, modulo 2^128. -/
theorem neg128_eq (a : WordPair) : neg128 a = w128 (-(a.u : Int)) := by
  have hlaw := neg128_law a
  have ha := a.u_lt
  rw [eq_w128_iff]
  omega

/-- R85: the negation of the signed reading, modulo 2^128. -/
theorem neg128_signed (a : WordPair) : neg128 a = w128 (-a.s) := by
  have hlaw := neg128_law a
  have hs := a.s_emod
  rw [eq_w128_iff]
  omega

/-- R85: the generic path gives MinInt128 its special value too. -/
theorem neg128_eq_complement_add_one (a : WordPair) : neg128 a = w128 (a.complement.u + 1 : Nat) := by
  unfold neg128
  split
  case isTrue hmin => subst hmin; decide
  case isFalse => rfl

/-- R85: MinInt128 is the special case. -/
theorem neg128_minInt128 : neg128 minInt128 = minInt128 := if_pos rfl

/-- R86: taking the distance to 2^128 twice gives the number back, modulo 2^128. -/
theorem neg128_neg128 (a : WordPair) : neg128 (neg128 a) = a := by
  have houter := neg128_law (neg128 a)
  have hinner := neg128_law a
  have ha := a.u_lt
  apply WordPair.u_injective
  omega

end Sys2Proof.Machine
end

section
/-! PROOFS. The negation (44_negation.md R85, R86). -/

namespace Sys2Proof.Machine

/-- Settles O37: each form of R85 is the unit's result, and MinInt128's is its special case. -/
theorem negIsTwosComplementNegation : Obligations.NegIsTwosComplementNegation := by
  intro s a b
  rw [← neg128_signed, ← neg128_eq]
  refine ⟨decode_of_code (m := .neg) rfl, exec_neg a b s, rfl, neg128_eq_complement_add_one a, ?minInt⟩
  case minInt =>
    rintro rfl
    exact neg128_minInt128

/-- Settles O38: the result reads as R86 says, and the unit undoes itself on it. -/
theorem negIsInvolution : Obligations.NegIsInvolution := by
  intro s a b
  have hundo : exec (.neg (neg128 a) b) s = .next (s.answer (.ok (.value a))) := by
    rw [exec_neg, neg128_neg128]
  exact ⟨neg128 a, exec_neg a b s, neg128_law a, hundo⟩

end Sys2Proof.Machine
end

section
/-! SUPPORT. The words and the bits of a pair: `w128(v)` word by word (00_scope.md R9), and a pair as the bits of its
unsigned reading (00_scope.md R8, 10_state.md R35). -/

namespace Sys2Proof

/-- Words of the same residue modulo 2^64 are the same word (R9). -/
theorem w64_congr {m n : Nat} (h : m % 2 ^ 64 = n % 2 ^ 64) : w64 m = w64 n :=
  BitVec.eq_of_toNat_eq (by rw [toNat_w64_nat, toNat_w64_nat, h])

@[simp] theorem w64_toNat (w : Word) : w64 w.toNat = w :=
  BitVec.eq_of_toNat_eq (toNat_w64_of_lt w.isLt)

/-- R9: the two words of `w128(v)`. -/
theorem w128_eq_words (v : Nat) : w128 v = ⟨w64 (v / 2 ^ 64 : Nat), w64 v⟩ := by
  apply WordPair.u_injective
  rw [u_w128_nat, u_mk, toNat_w64_nat, toNat_w64_nat]
  omega

/-- R8: the bits of a pair are those of its unsigned reading. -/
theorem WordPair.bit_eq_testBit (x : WordPair) (i : Nat) : x.bit i = x.u.testBit i := by
  rw [WordPair.bit, WordPair.u, mul_comm, Nat.testBit_two_pow_mul_add _ x.lo.isLt, BitVec.testBit_toNat,
    BitVec.testBit_toNat]

/-- A pair is determined by its 128 bits. -/
theorem WordPair.eq_of_bit_eq {x y : WordPair} (h : ∀ i < 128, x.bit i = y.bit i) : x = y := by
  apply WordPair.u_injective
  apply Nat.eq_of_testBit_eq
  intro i
  rcases Nat.lt_or_ge i 128 with hi | hi
  · rw [← x.bit_eq_testBit, ← y.bit_eq_testBit, h i hi]
  · have hpow : 2 ^ 128 ≤ 2 ^ i := Nat.pow_le_pow_right Nat.two_pos hi
    rw [Nat.testBit_lt_two_pow (x.u_lt.trans_le hpow), Nat.testBit_lt_two_pow (y.u_lt.trans_le hpow)]

end Sys2Proof
end

section
/-! SUPPORT. The shifter: the two shifts as `w128` of the mathematical result and by words (45_shifter.md R88, R89), and
the rotation bit by bit, from which its laws follow (R90, R91). -/

namespace Sys2Proof.Machine

/-- R88: one form for every amount, since a multiple of 2^128 wraps to Zero. -/
theorem shl128_eq (a : WordPair) (n : Nat) : shl128 a n = w128 (a.u * 2 ^ n : Nat) :=
  WordPair.u_injective ((shl128_law a n).trans (u_w128_nat _).symm)

/-- R89: one form for every amount, since 2^128 is above every reading. -/
theorem shr128_eq (a : WordPair) (n : Nat) : shr128 a n = w128 (a.u / 2 ^ n : Nat) := by
  rw [← shr128_law, w128_u]

/-- R88: from 128 on. -/
theorem shl128_of_ge (a : WordPair) {n : Nat} (h : 128 ≤ n) : shl128 a n = zeroPair := if_pos h

/-- R89: from 128 on. -/
theorem shr128_of_ge (a : WordPair) {n : Nat} (h : 128 ≤ n) : shr128 a n = zeroPair := if_pos h

@[simp] theorem shl128_zero (a : WordPair) : shl128 a 0 = a := by
  rw [shl128_eq, pow_zero, mul_one, w128_u]

@[simp] theorem shr128_zero (a : WordPair) : shr128 a 0 = a := by
  rw [shr128_eq, pow_zero, Nat.div_one, w128_u]

/-- What A.hi adds to a left shift stays above the low word. -/
theorem w64_u_mul_two_pow (a : WordPair) (n : Nat) : w64 (a.u * 2 ^ n : Nat) = w64 (a.lo.toNat * 2 ^ n : Nat) := by
  have hlow : a.u ≡ a.lo.toNat [MOD 2 ^ 64] := a.u_lo.trans (Nat.mod_eq_of_lt a.lo.isLt).symm
  exact w64_congr (hlow.mul_right _)

/-- R88: below 64 the top n bits of A.lo enter the high word. -/
theorem shl128_below_word (a : WordPair) {n : Nat} (h : n < 64) :
    shl128 a n = ⟨w64 (a.hi.toNat * 2 ^ n + a.lo.toNat / 2 ^ (64 - n) : Nat), w64 (a.lo.toNat * 2 ^ n : Nat)⟩ := by
  have hword : (2 : Nat) ^ 64 = 2 ^ (64 - n) * 2 ^ n := by rw [← pow_add, Nat.sub_add_cancel h.le]
  have hhigh : a.u * 2 ^ n / 2 ^ 64 = a.hi.toNat * 2 ^ n + a.lo.toNat / 2 ^ (64 - n) := by
    calc a.u * 2 ^ n / 2 ^ 64
        = (2 ^ 64 * (a.hi.toNat * 2 ^ n) + a.lo.toNat * 2 ^ n) / 2 ^ 64 := by rw [WordPair.u]; ring_nf
      _ = a.hi.toNat * 2 ^ n + a.lo.toNat * 2 ^ n / 2 ^ 64 := Nat.mul_add_div (by norm_num) _ _
      _ = a.hi.toNat * 2 ^ n + a.lo.toNat / 2 ^ (64 - n) := by
        rw [hword, Nat.mul_div_mul_right _ _ (Nat.two_pow_pos n)]
  rw [shl128_eq, w128_eq_words, hhigh, w64_u_mul_two_pow]

/-- R88: from 64 on A.lo alone is shifted, within the high word. -/
theorem shl128_word_add (a : WordPair) (m : Nat) : shl128 a (64 + m) = ⟨w64 (a.lo.toNat * 2 ^ m : Nat), 0⟩ := by
  have hprod : a.u * 2 ^ (64 + m) = a.u * 2 ^ m * 2 ^ 64 := by rw [pow_add]; ring
  have hlow : w64 (a.u * 2 ^ m * 2 ^ 64 : Nat) = 0 := w64_congr (n := 0) (Nat.mul_mod_left _ _)
  rw [shl128_eq, hprod, w128_eq_words, Nat.mul_div_cancel _ (by norm_num), hlow, w64_u_mul_two_pow]

/-- R89: below 64 the low n bits of A.hi enter the low word. -/
theorem shr128_below_word (a : WordPair) {n : Nat} (h : n < 64) :
    shr128 a n = ⟨w64 (a.hi.toNat / 2 ^ n : Nat), w64 (a.lo.toNat / 2 ^ n + a.hi.toNat * 2 ^ (64 - n) : Nat)⟩ := by
  have hhigh : a.u / 2 ^ n / 2 ^ 64 = a.hi.toNat / 2 ^ n := by rw [Nat.div_right_comm, a.u_hi]
  have hword : (2 : Nat) ^ 64 = 2 ^ n * 2 ^ (64 - n) := by rw [← pow_add, Nat.add_sub_cancel' h.le]
  have hlow : a.u / 2 ^ n = a.lo.toNat / 2 ^ n + a.hi.toNat * 2 ^ (64 - n) := by
    calc a.u / 2 ^ n
        = (a.lo.toNat + 2 ^ n * (a.hi.toNat * 2 ^ (64 - n))) / 2 ^ n := by rw [WordPair.u, hword]; ring_nf
      _ = a.lo.toNat / 2 ^ n + a.hi.toNat * 2 ^ (64 - n) := Nat.add_mul_div_left _ _ (Nat.two_pow_pos n)
  rw [shr128_eq, w128_eq_words, hhigh, hlow]

/-- R89: from 64 on A.hi alone is shifted, within the low word. -/
theorem shr128_word_add (a : WordPair) (m : Nat) : shr128 a (64 + m) = ⟨0, w64 (a.hi.toNat / 2 ^ m : Nat)⟩ := by
  have hquot : a.u / 2 ^ (64 + m) = a.hi.toNat / 2 ^ m := by rw [pow_add, ← Nat.div_div_eq_div_mul, a.u_hi]
  rw [shr128_eq, hquot, w128_of_lt_word ((Nat.div_le_self _ _).trans_lt a.hi.isLt)]

/-- R90: the rotated reading as two fields, the low `128 - r` bits of A above its top r bits. -/
theorem rotl128_u_fields (a : WordPair) {k : Int} {r : Nat} (hr : (k % 128).toNat = r) :
    (rotl128 a k).u = 2 ^ r * (a.u % 2 ^ (128 - r)) + a.u / 2 ^ (128 - r) := by
  have hsplit : (2 : Nat) ^ 128 = 2 ^ r * 2 ^ (128 - r) := by rw [← pow_add, Nat.add_sub_cancel' (by omega)]
  rw [rotl128_law, hr, hsplit, mul_comm a.u, Nat.mul_mod_mul_left]

/-- R90: bit i of the rotation is bit `(i - k) mod 128` of the operand. -/
theorem rotl128_bit (a : WordPair) (k : Int) {i : Nat} (hi : i < 128) :
    (rotl128 a k).bit i = a.bit (((i : Int) - k) % 128).toNat := by
  obtain ⟨r, hr⟩ : ∃ r, (k % 128).toNat = r := ⟨_, rfl⟩
  have hsplit : (2 : Nat) ^ 128 = 2 ^ (128 - r) * 2 ^ r := by rw [← pow_add, Nat.sub_add_cancel (by omega)]
  have htop : a.u / 2 ^ (128 - r) < 2 ^ r := Nat.div_lt_of_lt_mul (hsplit ▸ a.u_lt)
  rw [WordPair.bit_eq_testBit, WordPair.bit_eq_testBit, rotl128_u_fields a hr, Nat.testBit_two_pow_mul_add _ htop]
  split
  case isTrue hlow =>
    have hidx : (((i : Int) - k) % 128).toNat = i + (128 - r) := by omega
    rw [hidx, Nat.testBit_div_two_pow]
  case isFalse hhigh =>
    have hidx : (((i : Int) - k) % 128).toNat = i - r := by omega
    rw [hidx, Nat.testBit_mod_two_pow, decide_eq_true (by omega), Bool.true_and]

/-- R91: rotations compose by adding their amounts. -/
theorem rotl128_rotl128 (a : WordPair) (j k : Int) : rotl128 (rotl128 a j) k = rotl128 a (j + k) := by
  apply WordPair.eq_of_bit_eq
  intro i hi
  have hidx : (((((i : Int) - k) % 128).toNat : Int) - j) % 128 = ((i : Int) - (j + k)) % 128 := by omega
  rw [rotl128_bit _ k hi, rotl128_bit a j (by omega), rotl128_bit a (j + k) hi, hidx]

/-- R90: an amount divisible by 128 rotates by nothing. -/
theorem rotl128_of_emod_eq_zero (a : WordPair) {k : Int} (h : k % 128 = 0) : rotl128 a k = a := by
  rw [rotl128, h]
  rfl

/-- R91: the opposite amount undoes a rotation. -/
theorem rotl128_neg_cancel (a : WordPair) (k : Int) : rotl128 (rotl128 a k) (-k) = a := by
  rw [rotl128_rotl128]
  exact rotl128_of_emod_eq_zero a (by omega)

/-- R91: a rotation undoes the one by the opposite amount. -/
theorem rotl128_cancel_neg (a : WordPair) (k : Int) : rotl128 (rotl128 a (-k)) k = a := by
  simpa only [neg_neg] using rotl128_neg_cancel a (-k)

/-- ROTL by an amount encoded in a word rotates by that amount, though the word wraps it (R52). -/
theorem exec_rotl_w64 (a : WordPair) (v : Int) (s : State) :
    exec (.rotl a ⟨0, w64 v⟩) s = .next (s.answer (.ok (.value (rotl128 a v)))) := by
  rw [exec_rotl, rotateAmount, rotl128_congr a (s64_w64_emod v)]

/-- ROTL answers with the rotation and with nothing else. -/
theorem rotl128_eq_of_exec_rotl {a b y : WordPair} {s : State}
    (h : exec (.rotl a b) s = .next (s.answer (.ok (.value y)))) : rotl128 a (s64 b.lo) = y := by
  rw [exec_rotl] at h
  injection h with hstate
  exact congrArg Outputs.y (Response.ok.inj (Option.some.inj (congrArg State.response hstate)))

end Sys2Proof.Machine
end

section
/-! PROOFS. The shifter (45_shifter.md R88 to R91). -/

namespace Sys2Proof.Machine

/-- Settles O39: the boundary cases are the two word forms of the left shift, at both ends of their ranges. -/
theorem lshWordByWord : Obligations.LshWordByWord := by
  intro s a b
  refine ⟨decode_of_code (m := .lsh) rfl, shl128 a b.lo.toNat, exec_lsh a b s, shl128_eq a _,
    ?zero, fun _ => shl128_below_word a, ?word, ?above, shl128_of_ge a⟩
  case zero =>
    intro hn
    rw [hn, shl128_zero]
  case word =>
    intro hn
    simpa [hn] using shl128_word_add a 0
  case above =>
    intro hn _
    rw [← shl128_word_add, Nat.add_sub_cancel' hn.le]

/-- Settles O40: the boundary cases are the two word forms of the right shift, at both ends of their ranges. -/
theorem rshWordByWord : Obligations.RshWordByWord := by
  intro s a b
  refine ⟨decode_of_code (m := .rsh) rfl, shr128 a b.lo.toNat, exec_rsh a b s, shr128_eq a _,
    ?zero, fun _ => shr128_below_word a, ?word, ?above, shr128_of_ge a⟩
  case zero =>
    intro hn
    rw [hn, shr128_zero]
  case word =>
    intro hn
    simpa [hn] using shr128_word_add a 0
  case above =>
    intro hn _
    rw [← shr128_word_add, Nat.add_sub_cancel' hn.le]

/-- Settles O41: the rotation's bits at the amount that ROTL reads. -/
theorem rotlBitByBit : Obligations.RotlBitByBit := by
  intro s a b
  exact ⟨decode_of_code (m := .rotl) rfl, rotl128 a (s64 b.lo), exec_rotl a b s, fun _ => rotl128_bit a (s64 b.lo)⟩

/-- Settles O42: the rotation by the opposite amount is the inverse on both sides. An amount that leaves the word on the
way, 2^63 among them, is wrapped by a multiple of 128. -/
theorem rotationLaws : Obligations.RotationLaws := by
  intro s x k
  refine ⟨⟨rotl128 x (-s64 k.lo), ?reached, ?unique⟩,
    ⟨rotl128 x (s64 k.lo), exec_rotl x k s, ?inverse⟩, ?full, ?period⟩
  case reached =>
    rw [exec_rotl, rotateAmount, rotl128_cancel_neg]
    rfl
  case unique =>
    intro v hv
    rw [← rotl128_eq_of_exec_rotl hv, rotl128_neg_cancel]
  case inverse =>
    rw [exec_rotl_w64, rotl128_neg_cancel]
    rfl
  case full =>
    have hfull := exec_rotl_w64 x 128 s
    rwa [rotl128_of_emod_eq_zero x (by decide)] at hfull
  case period =>
    intro _
    rw [exec_rotl_w64, rotl128_congr x (Int.add_emod_right (s64 k.lo) 128)]
    rfl

end Sys2Proof.Machine
end

section
/-! SUPPORT. The comparators: the three-way result as the sign of a difference (46_comparator.md R92 to R95), and the
signed reading as a name of the pair (00_scope.md R9). -/

namespace Sys2Proof

/-- R9: the signed reading determines the pair, since it determines the unsigned one. -/
theorem WordPair.s_inj {x y : WordPair} : x.s = y.s ↔ x = y := by
  refine ⟨fun h => WordPair.u_injective ?_, congrArg WordPair.s⟩
  have hu : (x.u : Int) = y.u := by rw [← x.s_emod, ← y.s_emod, h]
  exact Int.ofNat_inj.mp hu

namespace Machine

/-- R92: the three-way result of the integer order is the sign of the difference. -/
theorem comparePair_compare_int (x y : Int) : comparePair (compare x y) = w128 (x - y).sign := by
  rcases lt_trichotomy x y with hlt | heq | hgt
  · rw [compare_lt_iff_lt.mpr hlt, Int.sign_eq_neg_one_of_neg (Int.sub_neg_of_lt hlt), comparePair_law]
  · rw [compare_eq_iff_eq.mpr heq, Int.sub_eq_zero_of_eq heq, Int.sign_zero, comparePair_law]
  · rw [compare_gt_iff_gt.mpr hgt, Int.sign_eq_one_of_pos (Int.sub_pos_of_lt hgt), comparePair_law]

/-- R92: the same on the natural numbers, whose order is that of the integers. -/
theorem comparePair_compare_nat (x y : Nat) : comparePair (compare x y) = w128 ((x : Int) - y).sign := by
  have hcast : compare (x : Int) y = compare x y := by
    rw [← cmp_eq_compare, ← cmp_eq_compare, Nat.strictMono_cast.cmp_map_eq]
  rw [← hcast, comparePair_compare_int]

/-- R95: CMPU64 answers with the three-way result of the unsigned order on A and the word. -/
theorem exec_cmpu64_compare (a b : WordPair) (s : State) :
    exec (.cmpu64 a b) s = .next (s.answer (.ok (.value (comparePair (compare a.u b.lo.toNat))))) := by
  rw [exec_cmpu64, compareWord_law]

/-- Equality of the signed readings is equality of the pairs (R9). -/
theorem equalOf_compare_s (a b : WordPair) : equalOf (comparePair (compare a.s b.s)) = decide (a = b) := by
  rw [equalOf_compare, decide_eq_decide, WordPair.s_inj]

end Machine

end Sys2Proof
end

section
/-! PROOFS. The comparators (46_comparator.md R92 to R96). -/

namespace Sys2Proof.Machine

/-- Settles O43: the sign bits, then the unsigned order, decide the signed order. -/
theorem cmpsIsSignedOrder : Obligations.CmpsIsSignedOrder := by
  intro s a b
  refine ⟨decode_of_code (m := .cmps) rfl, ?_⟩
  rw [exec_cmps_compare, comparePair_compare_int]
  rfl

/-- Settles O44: the high words, then the low words, decide the unsigned order. -/
theorem cmpuIsUnsignedOrder : Obligations.CmpuIsUnsignedOrder := by
  intro s a b
  refine ⟨decode_of_code (m := .cmpu) rfl, ?_⟩
  rw [exec_cmpu_compare, comparePair_compare_nat]
  rfl

/-- Settles O45: a nonzero high word of A decides, as no word reaches 2^64. -/
theorem cmpu64ComparesWithWord : Obligations.Cmpu64ComparesWithWord := by
  intro s a b
  refine ⟨decode_of_code (m := .cmpu64) rfl, ?_⟩
  rw [exec_cmpu64_compare, comparePair_compare_nat]
  rfl

/-- Settles O46: both comparators answer with the three-way result of a linear order, on which each test is the order's;
both readings determine the pair, so that equality is that of the pairs. -/
theorem derivedPredicatesDecideTheOrder : Obligations.DerivedPredicatesDecideTheOrder := by
  intro s a b
  refine ⟨comparePair (compare a.u b.u), comparePair (compare a.s b.s),
    exec_cmpu_compare a b s, exec_cmps_compare a b s, ?_⟩
  simp only [equalOf_compare_u, equalOf_compare_s, lessThanOf_compare, greaterThanOf_compare, lessOrEqualOf_compare,
    greaterOrEqualOf_compare, decide_eq_true_iff, and_self]

end Sys2Proof.Machine
end

section
/-! SUPPORT. The encoder and the decoder undo each other, on the fields of a request and so on its word (30_encoding.md
R45, R46, R57). -/

namespace Sys2Proof

/-- An instruction is its operation on the operands it carries. -/
@[simp] theorem Instr.instr_mnemonic (i : Instr) : i.mnemonic.instr i.opA i.opB = i := by
  cases i <;> rfl

@[simp] theorem encode_instr (m : Mnemonic) (a b : WordPair) : encode (m.instr a b) = ⟨m.code, a, b⟩ := by
  cases m <;> rfl

/-- R46, R57: the request of an instruction decodes to it. -/
@[simp] theorem decode_encode (i : Instr) : decode (encode i) = .ok i := by
  have hd : decode (encode i) = .ok (i.mnemonic.instr i.opA i.opB) := decode_of_code rfl
  rw [hd, i.instr_mnemonic]

/-- R46, R57: a request that decodes is the request of the instruction it decodes to. -/
theorem encode_of_decode {r : Request} {i : Instr} (h : decode r = .ok i) : encode i = r := by
  by_cases hres : r.op ∈ reservedCodes
  · rw [decode_of_reserved hres] at h
    cases h
  · obtain ⟨m, hm⟩ := exists_code_of_not_reserved hres
    rw [decode_of_code hm] at h
    obtain rfl : m.instr r.a r.b = i := Except.ok.inj h
    rw [encode_instr, hm]

/-- R45: decoding a packed request is decoding the request. -/
@[simp] theorem decodeWord_toWord (r : Request) : decodeWord r.toWord = decode r := by
  rw [decodeWord, ofWord_toWord]

end Sys2Proof
end

section
/-! PROOFS. The request word and its instruction (30_encoding.md sections 1 and 2). -/

namespace Sys2Proof

/-- Settles O1: the word unpacks to the request, whose code is the operation's. -/
theorem decodeOfEncodedWord : Obligations.DecodeOfEncodedWord := by
  intro i
  rw [encodeWord, decodeWord_toWord, decode_encode]

/-- Settles O2: the instruction's request is the one the word unpacks to, and packing that gives the word back. -/
theorem encodeOfDecodedWord : Obligations.EncodeOfDecodedWord := by
  intro w i h
  rw [encodeWord, encode_of_decode h, toWord_ofWord]

/-- Settles O6: each word is the packed request of its line, whose code the tables name or reserve. -/
theorem writtenOutWordsDecode : Obligations.WrittenOutWordsDecode :=
  ⟨decodeOfEncodedWord (.add ⟨1, 2⟩ ⟨3, 4⟩), decodeOfEncodedWord (.divu64 ⟨1, 0⟩ ⟨0, 3⟩),
    decodeOfEncodedWord (.cmpu64 ⟨0, 5⟩ ⟨7, 5⟩), decodeOfEncodedWord (.cvti2f ⟨9, 8⟩ ⟨0, 0⟩),
    (decodeWord_toWord ⟨0x1F, ⟨1, 2⟩, ⟨3, 4⟩⟩).trans (decode_of_reserved (by decide))⟩

end Sys2Proof
end

section
/-! SUPPORT. When the block faults (60_exceptions.md R107, R110, R111), and the host's turn after a reset
(70_reset_and_hazards.md R122). -/

namespace Sys2Proof.Machine

/-- R107: the request is a division whose own divisor is zero. `step_of_zeroDivisor` and `step_of_not_zeroDivisor` tie it
to the block. -/
def ZeroDivisor (r : Request) : Prop := (r.op = 0x0D ∧ r.b.u = 0) ∨ (r.op = 0x0C ∧ r.b.lo = 0)

/-- R55, R111: the dividers' codes are not reserved, so the two fault conditions exclude each other. -/
theorem ZeroDivisor.not_reserved {r : Request} (h : ZeroDivisor r) : r.op ∉ reservedCodes := by
  rcases h with ⟨hop, -⟩ | ⟨hop, -⟩
  · rw [hop]; decide
  · rw [hop]; decide

/-- R110: a reserved code is answered by ILLEGAL_OP. -/
theorem step_of_reserved {s : State} {r : Request} (hr : s.request = some r) (h : r.op ∈ reservedCodes) :
    step s = .next (s.answer (.fault .illegalOp)) :=
  step_of_decode_error hr (decode_of_reserved h)

/-- R107: a division by zero is answered by DIV_ZERO. -/
theorem step_of_zeroDivisor {s : State} {r : Request} (hr : s.request = some r) (h : ZeroDivisor r) :
    step s = .next (s.answer (.fault .divZero)) := by
  rcases h with ⟨hop, hb⟩ | ⟨hop, hb⟩
  · rw [step_of_code (m := .divu) hr hop.symm]
    exact exec_divu_zero r.a r.b s hb
  · rw [step_of_code (m := .divu64) hr hop.symm]
    exact exec_divu64_zero r.a r.b s (by simp [hb])

/-- R28, R108: only the dividers can fault. -/
theorem Gives.exists_ok {m : Mnemonic} {x : Response} (h : Gives m x) (hm : m ∉ [.divu64, .divu]) : ∃ o, x = .ok o := by
  cases h with
  | carry => exact ⟨_, rfl⟩
  | value => exact ⟨_, rfl⟩
  | division => exact ⟨_, rfl⟩
  | divZero hdiv => exact absurd hdiv hm
  | conversion => exact ⟨_, rfl⟩

/-- R107, R111: every other request is answered OK. -/
theorem step_of_not_zeroDivisor {s : State} {r : Request} (hr : s.request = some r) (hres : r.op ∉ reservedCodes)
    (h : ¬ZeroDivisor r) : ∃ o, step s = .next (s.answer (.ok o)) := by
  obtain ⟨m, hm⟩ := exists_code_of_not_reserved hres
  rw [step_of_code hr hm]
  by_cases hdiv : m ∈ [.divu64, .divu]
  · have hcases : m = .divu64 ∨ m = .divu := by simpa using hdiv
    rcases hcases with rfl | rfl
    · have hb : r.b.lo ≠ 0 := fun hb => h (.inr ⟨hm.symm, hb⟩)
      exact ⟨_, exec_divu64 r.a r.b s (WordPair.lo_toNat_ne_zero hb)⟩
    · have hb : r.b.u ≠ 0 := fun hb => h (.inl ⟨hm.symm, hb⟩)
      exact ⟨_, exec_divu r.a r.b s hb⟩
  · obtain ⟨x, hx, hg⟩ := exec_gives (m.instr r.a r.b) s
    obtain ⟨o, rfl⟩ := hg.exists_ok (by rwa [Mnemonic.mnemonic_instr])
    exact ⟨o, hx⟩

/-- A running host that waits for a response that is not there runs the well-formed statement of its counter again. -/
theorem hostStep_of_lost_response {s : State} {dst : Nat} {st : Stmt} (hrun : s.host.status = .running)
    (ha : s.host.awaiting = some dst) (hx : s.response = none)
    (hst : statementAt s.host.program s.host.counter = some st) (hw : st.wf s.host.program.length = true) :
    hostStep s = runStatement st s := by
  simp [hostStep, hrun, ha, hx, runCounter, hst, hw]

/-- Calling for the record that is already awaited leaves the host as it is. -/
theorem State.hostCall_of_awaiting {s : State} {dst : Nat} (ha : s.host.awaiting = some dst) (r : Request) :
    s.hostCall dst r = s.issue r := by
  rw [State.hostCall, ← ha]
  rfl

end Sys2Proof.Machine
end

section
/-! PROOFS. Faults of the block (60_exceptions.md), and one answer for every request, after faults and resets alike
(70_reset_and_hazards.md). -/

namespace Sys2Proof.Machine

/-- Settles O7: the block's turn on a request that decodes. -/
theorem stepRunsOutstandingInstruction : Obligations.StepRunsOutstandingInstruction :=
  fun _ _ _ => step_of_decode_ok

/-- Settles O8: a reserved code does not decode, and the fault answer writes the three fields. -/
theorem reservedCodeIsIllegalOp : Obligations.ReservedCodeIsIllegalOp := by
  intro s r hr hres
  rw [step_of_reserved hr hres, State.answer_fault_eq]

/-- Settles O12: the three kinds of request, which exclude each other, have the three kinds of answer. -/
theorem faultsInExactlyTwoCases : Obligations.FaultsInExactlyTwoCases := by
  intro s r hr
  show ∃ t, step s = .next t ∧ (t.response = some (.fault .divZero) ↔ ZeroDivisor r) ∧
    (t.response = some (.fault .illegalOp) ↔ r.op ∈ reservedCodes) ∧
    ((∃ o, t.response = some (.ok o)) ↔ r.op ∉ reservedCodes ∧ ¬ZeroDivisor r)
  by_cases hres : r.op ∈ reservedCodes
  · have hdiv : ¬ZeroDivisor r := fun h => h.not_reserved hres
    exact ⟨_, step_of_reserved hr hres, by simp [hres, hdiv]⟩
  · by_cases hdiv : ZeroDivisor r
    · exact ⟨_, step_of_zeroDivisor hr hdiv, by simp [hres, hdiv]⟩
    · obtain ⟨o, ho⟩ := step_of_not_zeroDivisor hr hres hdiv
      exact ⟨_, ho, by simp [hres, hdiv]⟩

/-- Settles O13: raising is the FAULT answer with the code. -/
theorem raisedFaultCarriesItsCodeOnly : Obligations.RaisedFaultCarriesItsCodeOnly := by
  intro c s
  refine ⟨s.answer (.fault c), .fault c, raiseFault_eq c s, s.answer_response _, rfl, ?number, rfl,
    hostRead_of_fault (s.answer_response _), s.answer_request _, s.answer_host _, s.answer_fault_faults c⟩
  case number =>
    cases c with
    | divZero => rfl
    | illegalOp => rfl

/-- Settles O14: 0 is the FC of OK, 1 and 2 are those of the two faults. -/
theorem faultCodeThreeIsNeverGiven : Obligations.FaultCodeThreeIsNeverGiven := by
  intro x
  cases x with
  | ok o => exact ⟨show (0 : BitVec 2) ≠ 3 by decide, show (0 : BitVec 2) = 0 ↔ (0 : BitVec 1) = 0 by decide⟩
  | fault c =>
    cases c with
    | divZero => exact ⟨by decide, by decide⟩
    | illegalOp => exact ⟨by decide, by decide⟩

/-- Settles O9: the step is the answer with the request's one response, and answering is framed. -/
theorem everyRequestIsAnsweredAtOnce : Obligations.EveryRequestIsAnsweredAtOnce := by
  intro s r hr
  obtain ⟨x, hx⟩ := step_answers r
  refine ⟨s.answer x, hx s hr, s.answer_request x, rfl, s.answer_host x, ?_⟩
  cases x with
  | ok o => exact .inl (s.answer_ok_faults o)
  | fault c => exact .inr ⟨c, s.answer_response _, s.answer_fault_faults c⟩

/-- Settles O15: the request's one response is given after both, and no answer drops the earlier fault. -/
theorem faultLeavesNothingBehind : Obligations.FaultLeavesNothingBehind := by
  intro s c o r
  obtain ⟨x, hx⟩ := step_answers r
  have hc : c ∈ ((s.answer (.fault c)).issue r).faults := by simp
  exact ⟨_, _, hx _ (State.issue_request _ r), hx _ (State.issue_request _ r), rfl, rfl, State.mem_answer_faults x hc⟩

/-- Settles O16: the request's one response is given with and without the reset. -/
theorem resetChangesNoLaterResponse : Obligations.ResetChangesNoLaterResponse := by
  intro s r
  obtain ⟨x, hx⟩ := step_answers r
  exact ⟨s.applyReset_request, s.applyReset_response, _, _, hx _ (s.applyReset.issue_request r),
    hx _ (s.issue_request r), rfl⟩

/-- Settles O17: the reset leaves the host waiting without a response, so the statement of its counter runs again. -/
theorem hostIssuesAgainAfterReset : Obligations.HostIssuesAgainAfterReset := by
  intro s dst c r hrun ha hst hw hc
  have hstmt : hostStep s.applyReset = runStatement (.request dst c) s.applyReset :=
    hostStep_of_lost_response hrun ha s.applyReset_response hst hw
  have hcall : s.applyReset.hostCall dst r = s.applyReset.issue r := State.hostCall_of_awaiting ha r
  rw [step_of_no_request s.applyReset_request, hstmt, runStatement_request (s := s.applyReset) hc, hcall]
  rfl

end Sys2Proof.Machine
end

section
/-! SUPPORT. Float64 patterns as numbers: what a finite pattern is, and the pattern of the other
sign (47_converters.md R97, R98, R105). -/

namespace Sys2Proof

/-- R97: the ranges of the two numeric fields. -/
theorem f64Fields_bounds (bits : Word) : (f64Fields bits).exponent < 2 ^ 11 ∧ (f64Fields bits).fraction < 2 ^ 52 :=
  ⟨Nat.mod_lt _ (by norm_num), Nat.mod_lt _ (by norm_num)⟩

/-- R98: a finite pattern is a zero or a subnormal, or a normal. -/
theorem f64Value_finite_cases {bits : Word} {neg : Bool} {m : Nat} {e : Int} (h : f64Value bits = .finite neg m e) :
    (f64Fields bits).sign = neg ∧
      (((f64Fields bits).exponent = 0 ∧ m = (f64Fields bits).fraction ∧ e = -1074) ∨
       ((f64Fields bits).exponent ≠ 0 ∧ (f64Fields bits).exponent ≠ 0x7FF ∧ m = 2 ^ 52 + (f64Fields bits).fraction ∧
          e = (f64Fields bits).exponent - 1075)) := by
  simp only [f64Value] at h
  split at h
  · split at h
    · cases h
    · cases h
  next hmax =>
  split at h
  · next hzero => cases h; exact ⟨rfl, .inl ⟨hzero, rfl, rfl⟩⟩
  · next hzero => cases h; exact ⟨rfl, .inr ⟨hzero, hmax, rfl, rfl⟩⟩

/-- R98: the significand of a finite pattern has at most 53 bits, and exactly 53 away from the least exponent. -/
theorem f64Value_finite_bounds {bits : Word} {neg : Bool} {m : Nat} {e : Int} (h : f64Value bits = .finite neg m e) :
    m < 2 ^ 53 ∧ (e = -1074 ∨ 2 ^ 52 ≤ m) := by
  have hF := (f64Fields_bounds bits).2
  obtain ⟨-, ⟨-, rfl, he⟩ | ⟨-, -, rfl, -⟩⟩ := f64Value_finite_cases h
  · exact ⟨by omega, .inl he⟩
  · exact ⟨by omega, .inr (by omega)⟩

/-- R98: a pattern that denotes a number is finite. -/
theorem exists_finite_of_toRat {bits : Word} {q : ℚ} (h : (f64Value bits).toRat = some q) :
    ∃ neg m e, f64Value bits = .finite neg m e ∧ q = (if neg then -1 else 1) * (m : ℚ) * 2 ^ e := by
  cases hv : f64Value bits with
  | nan => simp [hv, F64Value.toRat] at h
  | inf neg => simp [hv, F64Value.toRat] at h
  | finite neg m e => exact ⟨neg, m, e, rfl, (by simpa [hv, F64Value.toRat] using h.symm)⟩

/-- R98: the magnitude of a number that a pattern denotes, a significand of at most 53 bits at some exponent. -/
theorem exists_abs_of_toRat {bits : Word} {q : ℚ} (h : (f64Value bits).toRat = some q) :
    ∃ (neg : Bool) (m : Nat) (e : Int), m < 2 ^ 53 ∧ q = (if neg then -1 else 1) * (m : ℚ) * 2 ^ e ∧ |q| = m * 2 ^ e := by
  obtain ⟨neg, m, e, hv, rfl⟩ := exists_finite_of_toRat h
  refine ⟨neg, m, e, (f64Value_finite_bounds hv).1, rfl, ?_⟩
  cases neg with
  | false => simp
  | true => simp

/-- R103: an integer that a pattern denotes has at most 53 significant bits. -/
theorem significant_bits_of_toRat {bits : Word} {v : Int} (h : (f64Value bits).toRat = some (v : ℚ)) :
    ∃ m k : Nat, m < 2 ^ 53 ∧ v.natAbs = m * 2 ^ k := by
  obtain ⟨-, m, e, hm, -, habs⟩ := exists_abs_of_toRat h
  rw [← Int.cast_abs, ← Nat.cast_natAbs] at habs
  rcases le_total 0 e with he | he
  · obtain ⟨k, rfl⟩ := Int.eq_ofNat_of_zero_le he
    exact ⟨m, k, hm, by exact_mod_cast habs⟩
  · obtain ⟨k, hk⟩ := Int.eq_ofNat_of_zero_le (show 0 ≤ -e by omega)
    obtain rfl : e = -(k : Int) := by omega
    have hscaled : v.natAbs * 2 ^ k = m := by
      rw [zpow_neg, zpow_natCast, eq_mul_inv_iff_mul_eq₀ (by positivity)] at habs
      exact_mod_cast habs
    have hle : v.natAbs ≤ v.natAbs * 2 ^ k := Nat.le_mul_of_pos_right _ (Nat.two_pow_pos k)
    exact ⟨v.natAbs, 0, by omega, by simp⟩

/-- R98: a number that a pattern denotes is a multiple of `2^s`, or its magnitude is below `2^52 * 2^s`. -/
theorem multiple_or_small_of_toRat {bits : Word} {q : ℚ} (h : (f64Value bits).toRat = some q) (s : Nat) :
    (∃ j : Int, q = j * 2 ^ s) ∨ |q| < 2 ^ 52 * 2 ^ s := by
  obtain ⟨neg, m, e, hm, hq, habs⟩ := exists_abs_of_toRat h
  rcases le_or_gt (s : Int) e with he | he
  · obtain ⟨k, hk⟩ := Int.eq_ofNat_of_zero_le (show 0 ≤ e - s by omega)
    obtain rfl : e = k + s := by omega
    refine .inl ⟨(if neg then -1 else 1) * m * 2 ^ k, ?_⟩
    rw [hq, zpow_add₀ two_ne_zero, zpow_natCast, zpow_natCast]
    push_cast
    ring
  · have hm' : (m : ℚ) < 2 ^ 53 := by exact_mod_cast hm
    have he' : (2 : ℚ) ^ e ≤ 2 ^ ((s : Int) - 1) := zpow_le_zpow_right₀ one_le_two (by omega)
    refine .inr ?_
    calc |q| = m * 2 ^ e := habs
      _ < 2 ^ 53 * 2 ^ e := by gcongr
      _ ≤ 2 ^ 53 * 2 ^ ((s : Int) - 1) := by gcongr
      _ = 2 ^ 52 * 2 ^ s := by rw [zpow_sub_one₀ two_ne_zero, zpow_natCast]; ring

/-- R97: adding the sign bit's weight changes the sign field and nothing else. -/
theorem f64Fields_add_sign_bit (bits : Word) :
    f64Fields (bits + 0x8000000000000000) = { f64Fields bits with sign := !(f64Fields bits).sign } := by
  have hsum : (bits + 0x8000000000000000).toNat = (bits.toNat + 2 ^ 63) % 2 ^ 64 := BitVec.toNat_add _ _
  have hsign : (bits + 0x8000000000000000).getLsbD 63 = !bits.getLsbD 63 := by
    rw [← BitVec.testBit_toNat, ← BitVec.testBit_toNat, Nat.testBit_eq_decide_div_mod_eq,
      Nat.testBit_eq_decide_div_mod_eq, ← decide_not, decide_eq_decide, hsum]
    omega
  have hE : (bits + 0x8000000000000000).toNat / 2 ^ 52 % 2 ^ 11 = bits.toNat / 2 ^ 52 % 2 ^ 11 := by omega
  have hF : (bits + 0x8000000000000000).toNat % 2 ^ 52 = bits.toNat % 2 ^ 52 := by omega
  simp only [f64Fields, hsign, hE, hF]

/-- The pattern with its sign changed where `neg` says so, as CVTI2F writes it (R105). -/
def withSign (neg : Bool) (bits : Word) : Word := if neg then bits + 0x8000000000000000 else bits

theorem f64Fields_withSign (neg : Bool) (bits : Word) :
    f64Fields (withSign neg bits) = { f64Fields bits with sign := neg ^^ (f64Fields bits).sign } := by
  cases neg with
  | false => simp [withSign]
  | true => simpa [withSign] using f64Fields_add_sign_bit bits

/-- R98: the sign is a factor of the number. -/
theorem toRat_finite_xor (neg sign : Bool) (m : Nat) (e : Int) :
    (F64Value.finite (neg ^^ sign) m e).toRat = (F64Value.finite sign m e).toRat.map ((if neg then -1 else 1) * ·) := by
  cases neg with
  | false => simp [F64Value.toRat]
  | true => cases sign <;> simp [F64Value.toRat]

/-- R98: the sign changed is the number negated. -/
theorem toRat_withSign (neg : Bool) (bits : Word) :
    (f64Value (withSign neg bits)).toRat = (f64Value bits).toRat.map ((if neg then -1 else 1) * ·) := by
  simp only [f64Value, f64Fields_withSign]
  split
  · split
    · rfl
    · rfl
  · split
    · exact toRat_finite_xor neg _ _ _
    · exact toRat_finite_xor neg _ _ _

end Sys2Proof
end

section
/-! SUPPORT. `rne` gives the nearest finite pattern, ties to the even fraction (47_converters.md R102), on either side of
zero (R105). -/

namespace Sys2Proof

open Sys2Proof.Claims

section
variable {v : Nat} (h : 53 < bitlen v)
include h

/-- R102: the unit of the significand is two of its halves. -/
theorem rne_unit_eq : 2 ^ (bitlen v - 53) = 2 * 2 ^ (bitlen v - 53 - 1) := by
  rw [← pow_succ']
  congr 1
  omega

/-- R102: where the dropped bits are half a unit the significand is even. -/
theorem rneSignificand_even_of_half (hrem : v % 2 ^ (bitlen v - 53) = 2 ^ (bitlen v - 53 - 1)) :
    (rneSignificand v).1 % 2 = 0 := by
  simp only [rneSignificand, if_neg (Nat.not_le.mpr h), hrem, lt_irrefl, false_or, true_and]
  split
  · omega
  · omega

/-- R102: where the integer chosen is half a unit away from v the significand is even. -/
theorem rneSignificand_even_of_tie
    (htie : |(((rneSignificand v).1 * 2 ^ (bitlen v - 53) : Nat) : Int) - v| = 2 ^ (bitlen v - 53 - 1)) :
    (rneSignificand v).1 % 2 = 0 := by
  refine rneSignificand_even_of_half h ?_
  have hunit := rne_unit_eq h
  have hdiv := Nat.div_add_mod' v (2 ^ (bitlen v - 53))
  have hdist := (abs_eq (by positivity)).mp htie
  rcases rneSignificand_cases h with ⟨hm, hr⟩ | ⟨hm, hr⟩
  · rw [hm] at hdist
    zify at hdiv hr ⊢
    push_cast at hdist
    omega
  · rw [hm, Nat.add_mul, Nat.one_mul] at hdist
    zify at hunit hdiv hr ⊢
    push_cast at hdist
    omega

/-- R102: among the multiples of the unit none is nearer to v than the chosen one, and where another is as near, the
significand is even: the multiples are a unit apart, and the chosen one is within half a unit. -/
theorem rneSignificand_nearest {j : Int} (hj : j ≠ (rneSignificand v).1) :
    |((rneSignificand v).1 : Int) * 2 ^ (bitlen v - 53) - v| < |j * 2 ^ (bitlen v - 53) - v| ∨
      (|((rneSignificand v).1 : Int) * 2 ^ (bitlen v - 53) - v| = |j * 2 ^ (bitlen v - 53) - v| ∧
        (rneSignificand v).1 % 2 = 0) := by
  have hunit : (2 : Int) ^ (bitlen v - 53) = 2 * 2 ^ (bitlen v - 53 - 1) := by exact_mod_cast rne_unit_eq h
  have herr := rneSignificand_error h
  have htie := rneSignificand_even_of_tie h
  push_cast at herr htie
  have hapart : (2 : Int) ^ (bitlen v - 53) ≤ |j * 2 ^ (bitlen v - 53) - (rneSignificand v).1 * 2 ^ (bitlen v - 53)| := by
    rw [← sub_mul, abs_mul, abs_of_pos (show (0 : Int) < 2 ^ (bitlen v - 53) by positivity)]
    exact le_mul_of_one_le_left (by positivity) (Int.one_le_abs (sub_ne_zero.mpr hj))
  have htriangle := abs_sub_le (j * 2 ^ (bitlen v - 53)) (v : Int) ((rneSignificand v).1 * 2 ^ (bitlen v - 53))
  rw [abs_sub_comm (v : Int)] at htriangle
  rcases lt_or_ge |((rneSignificand v).1 : Int) * 2 ^ (bitlen v - 53) - v| |j * 2 ^ (bitlen v - 53) - v| with hlt | hge
  · exact .inl hlt
  · exact .inr ⟨by linarith, htie (by linarith)⟩

/-- `rneSignificand_nearest` on the number that the pattern denotes. -/
theorem rneValue_nearest_multiple {j : Int} (hj : (j : ℚ) * 2 ^ (bitlen v - 53) ≠ rneValue v) :
    |rneValue v - v| < |(j : ℚ) * 2 ^ (bitlen v - 53) - v| ∨
      (|rneValue v - v| = |(j : ℚ) * 2 ^ (bitlen v - 53) - v| ∧ (rneSignificand v).1 % 2 = 0) := by
  rw [rneValue_of_ge h.le] at hj ⊢
  push_cast at hj ⊢
  have hne : j ≠ (rneSignificand v).1 := by
    rintro rfl
    exact hj (by push_cast; rfl)
  rcases rneSignificand_nearest h hne with hlt | ⟨heq, heven⟩
  · exact .inl (by simpa using (Int.cast_lt (R := ℚ)).mpr hlt)
  · exact .inr ⟨by simpa using congrArg (Int.cast (R := ℚ)) heq, heven⟩

/-- R102: a number of magnitude below that of the 53-bit significands is farther from v than the chosen one: the least
of those significands stands between. -/
theorem rneValue_nearer_than_small {q : ℚ} (hq : |q| < 2 ^ 52 * 2 ^ (bitlen v - 53)) :
    |rneValue v - v| < |q - v| := by
  have hv : v ≠ 0 := by rintro rfl; simp [bitlen] at h
  have hlow : (2 : ℚ) ^ 52 * 2 ^ (bitlen v - 53) ≤ v := by
    have hle := two_pow_bitlen_le hv
    rw [show bitlen v - 1 = 52 + (bitlen v - 53) by omega, pow_add] at hle
    exact_mod_cast hle
  have hq' := (abs_lt.mp hq).2
  have hchosen : |rneValue v - v| ≤ |(2 : ℚ) ^ 52 * 2 ^ (bitlen v - 53) - v| := by
    by_cases heq : (2 : ℚ) ^ 52 * 2 ^ (bitlen v - 53) = rneValue v
    · rw [heq]
    · have hnear := rneValue_nearest_multiple (j := 2 ^ 52) h (by push_cast; exact heq)
      push_cast at hnear
      exact hnear.elim le_of_lt fun hn => hn.1.le
  calc |rneValue v - v| ≤ |(2 : ℚ) ^ 52 * 2 ^ (bitlen v - 53) - v| := hchosen
    _ = v - 2 ^ 52 * 2 ^ (bitlen v - 53) := by rw [abs_sub_comm, abs_of_nonneg (by linarith)]
    _ < v - q := by linarith
    _ ≤ |q - v| := by rw [abs_sub_comm]; exact le_abs_self _

end

/-- R97, R102: the last fraction bit of `rne v` is that of the significand, whether or not that carries to 2^53. -/
theorem rne_fraction_even {v : Nat} (h : (rneSignificand v).1 % 2 = 0) : (rne v).1.getLsbD 0 = false := by
  have hword : ∀ n : Nat, n % 2 = 0 → (w64 n).getLsbD 0 = false := by
    intro n hn
    rw [← BitVec.testBit_toNat, toNat_w64_nat, Nat.testBit_zero, decide_eq_false_iff_not]
    omega
  by_cases h0 : v = 0
  · subst h0; rfl
  · rw [rne_eq h0]
    split
    · exact hword _ (by omega)
    · exact hword _ (by omega)

/-- R102: the sign of `rne v` is 0. -/
theorem rne_sign {v : Nat} (hv : v < 2 ^ 128) : (rne v).1.getLsbD 63 = false := by
  by_cases h0 : v = 0
  · subst h0; rfl
  · have hb : bitlen v ≤ 128 := (bitlen_le_iff v 128).mpr hv
    have hm := (rneSignificand_bounds h0).2
    rw [rne_eq h0]
    split
    · exact getLsbD_w64_sign (by omega)
    · exact getLsbD_w64_sign (by omega)

/-- R102: `rne v` is the finite pattern nearest to v, ties to the even fraction. -/
theorem rne_nearestEven {v : Nat} (hv : v < 2 ^ 128) : NearestEven (rne v).1 v := by
  refine ⟨rneValue v, rne_toRat hv, ?_⟩
  intro w p hp hne
  by_cases hexact : rneValue v = v
  · rw [hexact] at hne ⊢
    exact .inl (by simpa using sub_ne_zero.mpr hne)
  · have h53 : 53 < bitlen v := not_le.mp fun hle => hexact (rneValue_of_le hle)
    rcases multiple_or_small_of_toRat hp (bitlen v - 53) with ⟨j, rfl⟩ | hsmall
    · exact (rneValue_nearest_multiple h53 hne).imp_right fun heq => ⟨heq.1, rne_fraction_even heq.2⟩
    · exact .inl (rneValue_nearer_than_small h53 hsmall)

/-- R97: the sign bit is changed where `neg` says so. -/
theorem getLsbD_sign_withSign (neg : Bool) (bits : Word) :
    (withSign neg bits).getLsbD 63 = (neg ^^ bits.getLsbD 63) :=
  congrArg F64Fields.sign (f64Fields_withSign neg bits)

/-- R97: the sign is no part of the fraction. -/
theorem getLsbD_zero_withSign (neg : Bool) (bits : Word) : (withSign neg bits).getLsbD 0 = bits.getLsbD 0 := by
  cases neg with
  | false => rfl
  | true =>
    have hsum : (bits + 0x8000000000000000).toNat = (bits.toNat + 2 ^ 63) % 2 ^ 64 := BitVec.toNat_add _ _
    rw [withSign, if_pos rfl, ← BitVec.testBit_toNat, ← BitVec.testBit_toNat, Nat.testBit_zero, Nat.testBit_zero,
      decide_eq_decide]
    omega

/-- A sign is a factor that leaves distances as they are. -/
theorem abs_signed_sub (neg : Bool) (x y : ℚ) :
    |(if neg then -1 else 1) * x - (if neg then -1 else 1) * y| = |x - y| := by
  rw [← mul_sub, abs_mul]
  cases neg <;> simp

/-- R105: with the sign changed on both sides the pattern is still the nearest: what would be nearer has its mirror
image, which would be nearer before. -/
theorem nearestEven_withSign {bits : Word} {v : ℚ} (h : NearestEven bits v) (neg : Bool) :
    NearestEven (withSign neg bits) ((if neg then -1 else 1) * v) := by
  obtain ⟨q, hq, hnear⟩ := h
  refine ⟨(if neg then -1 else 1) * q, by rw [toRat_withSign, hq, Option.map_some], ?_⟩
  intro w p hp hne
  have hsign : (if neg then -1 else 1) * ((if neg then -1 else 1) * p) = p := by cases neg <;> simp
  have hmirror : (f64Value (withSign neg w)).toRat = some ((if neg then -1 else 1) * p) := by
    rw [toRat_withSign, hp, Option.map_some]
  have hne' : (if neg then -1 else 1) * p ≠ q := by
    rintro rfl
    exact hne hsign.symm
  have hdist := abs_signed_sub neg ((if neg then -1 else 1) * p) v
  rw [hsign] at hdist
  rw [abs_signed_sub, getLsbD_zero_withSign, hdist]
  exact hnear _ _ hmirror hne'

end Sys2Proof
end

section
/-! SUPPORT. The conversions from integers over any rounding (47_converters.md R103 to R105): both write a rounded magnitude
under the sign of the integer. -/

namespace Sys2Proof

/-- R7: the default of U2F_ROUND. -/
theorem u2fRound_eq : Config.u2fRound = rne := rfl

/-- R9: a signed reading is its magnitude under the sign bit. -/
theorem WordPair.s_eq_sign_natAbs (x : WordPair) : (x.s : ℚ) = (if x.sign then -1 else 1) * (x.s.natAbs : ℚ) := by
  have hu := x.u_lt
  rw [Nat.cast_natAbs]
  rcases x.s_cases with ⟨hsign, -, hs⟩ | ⟨hsign, -, hs⟩
  · rw [hsign, abs_of_neg (by omega)]
    push_cast
    simp
  · rw [hsign, abs_of_nonneg (by omega)]
    simp

/-- R9: the magnitude of a signed reading is in the range of the unsigned one. -/
theorem WordPair.natAbs_s_lt (x : WordPair) : x.s.natAbs < 2 ^ 128 := by
  have hu := x.u_lt
  rcases x.s_cases with ⟨-, hsign, hs⟩ | ⟨-, -, hs⟩
  · omega
  · rw [hs, Int.natAbs_natCast]
    exact hu

namespace Machine

open Sys2Proof.Claims

theorem cvtu2fOutputs_eq (round : Rounding) (a : WordPair) :
    cvtu2fOutputs round a = .conversion ⟨0, (round a.u).1⟩ true (round a.u).2 := rfl

/-- R105: the magnitude is rounded and the sign bit of the operand set on it. -/
theorem cvti2fOutputs_eq (round : Rounding) (a : WordPair) :
    cvti2fOutputs round a =
      .conversion ⟨0, withSign a.sign (round a.s.natAbs).1⟩ true (round a.s.natAbs).2 := by
  have hu := a.u_lt
  rcases a.s_cases with ⟨hsign, -, hs⟩ | ⟨hsign, -, hs⟩
  · have hmag : 2 ^ 128 - a.u = a.s.natAbs := by omega
    simp only [cvti2fOutputs, hsign, hmag, floatResult, withSign, if_true]
  · have hmag : a.u = a.s.natAbs := by omega
    simp only [cvti2fOutputs, hsign, ← hmag, floatResult, withSign, Bool.false_eq_true, if_false]

/-- R103: a rounding that is admissible at a magnitude flags the signed result as R103 says, on either side of zero. -/
theorem exactWithin53Bits_of_admissibleAt {round : Rounding} {n : Nat} (h : round.AdmissibleAt n) (neg : Bool) {v : Int}
    (hv : (v : ℚ) = (if neg then -1 else 1) * (n : ℚ)) (hn : v.natAbs = n) :
    ExactWithin53Bits (.conversion ⟨0, withSign neg (round n).1⟩ true (round n).2) v := by
  obtain ⟨q, hq, -, -, hexact, hflag⟩ := h
  have hval : (round n).2 = true ↔ (f64Value (withSign neg (round n).1)).toRat = some (v : ℚ) := by
    rw [hflag, toRat_withSign, hq, Option.map_some, Option.some.injEq, hv]
    cases neg <;> simp
  refine ⟨rfl, rfl, rfl, hval, fun hex => significant_bits_of_toRat (hval.mp hex), ?_⟩
  rintro ⟨m, k, hm, hmk⟩
  exact hflag.mpr (hexact ⟨m, k, hm, hn.symm.trans hmk⟩)

/-- R103: the exactness flag of a conversion, read off its outputs. -/
theorem conversion_flag_iff {bits : Word} {ex : Bool} {v : Int}
    (h : ExactWithin53Bits (.conversion ⟨0, bits⟩ true ex) v) : ex = true ↔ (f64Value bits).toRat = some (v : ℚ) := by
  obtain ⟨-, -, -, hflag, -⟩ := h
  exact hflag

theorem cvtu2fOutputs_exactWithin53Bits {round : Rounding} {a : WordPair} (h : round.AdmissibleAt a.u) :
    ExactWithin53Bits (cvtu2fOutputs round a) a.u :=
  exactWithin53Bits_of_admissibleAt h false (by simp) rfl

theorem cvti2fOutputs_exactWithin53Bits {round : Rounding} {a : WordPair} (h : round.AdmissibleAt a.s.natAbs) :
    ExactWithin53Bits (cvti2fOutputs round a) a.s := by
  rw [cvti2fOutputs_eq]
  exact exactWithin53Bits_of_admissibleAt h a.sign a.s_eq_sign_natAbs rfl

end Machine

end Sys2Proof
end

section
/-! PROOFS. The conversions from integers (47_converters.md R102 to R106). -/

namespace Sys2Proof.Machine

open Sys2Proof.Claims

/-- Settles O51: the value of `rne v` is `rneValue v`, whose error is at most 2^-53 of v. -/
theorem rneMeetsAccuracyBound : Obligations.RneMeetsAccuracyBound :=
  fun v hv => ⟨rneValue v, rne_toRat hv, rne_sign hv, rneValue_error v⟩

/-- Settles O50: what R103 says follows from admissibility at the magnitude, and the default rounding is admissible. -/
theorem intToFloatFlags : Obligations.IntToFloatFlags := by
  refine ⟨fun r a => cvtu2fOutputs_exactWithin53Bits, fun r a => cvti2fOutputs_exactWithin53Bits, ?_⟩
  intro s a b
  have hadm : Rounding.Admissible Config.u2fRound := defaultRoundingIsAdmissible
  exact ⟨_, _, exec_cvtu2f a b s, exec_cvti2f a b s, cvtu2fOutputs_exactWithin53Bits (hadm _ a.u_lt),
    cvti2fOutputs_exactWithin53Bits (hadm _ a.natAbs_s_lt)⟩

/-- Settles O48: the block rounds the unsigned reading with `rne`, whose pattern is the nearest. -/
theorem cvtu2fRoundsToNearestEven : Obligations.Cvtu2fRoundsToNearestEven := by
  intro s a b
  have hexact := cvtu2fOutputs_exactWithin53Bits (defaultRoundingIsAdmissible _ a.u_lt)
  rw [cvtu2fOutputs_eq, u2fRound_eq] at hexact
  have hflag := conversion_flag_iff hexact
  rw [Int.cast_natCast] at hflag
  refine ⟨decode_of_code (m := .cvtu2f) rfl, (rne a.u).1, (rne a.u).2, ?answer, rne_sign a.u_lt,
    rne_nearestEven a.u_lt, hflag⟩
  case answer => rw [exec_cvtu2f, cvtu2fOutputs_eq, u2fRound_eq]; rfl

/-- Settles O49: the block rounds the magnitude with `rne` and sets the sign, which mirrors the nearest pattern. -/
theorem cvti2fRoundsSignedToNearestEven : Obligations.Cvti2fRoundsSignedToNearestEven := by
  intro s a b
  have hexact := cvti2fOutputs_exactWithin53Bits (defaultRoundingIsAdmissible _ a.natAbs_s_lt)
  rw [cvti2fOutputs_eq, u2fRound_eq] at hexact
  refine ⟨decode_of_code (m := .cvti2f) rfl, withSign a.sign (rne a.s.natAbs).1, (rne a.s.natAbs).2, ?answer, ?sign,
    ?nearest, conversion_flag_iff hexact⟩
  case answer => rw [exec_cvti2f, cvti2fOutputs_eq, u2fRound_eq]; rfl
  case sign => rw [getLsbD_sign_withSign, rne_sign a.natAbs_s_lt, Bool.xor_false]
  case nearest =>
    rw [a.s_eq_sign_natAbs]
    exact nearestEven_withSign (rne_nearestEven a.natAbs_s_lt) a.sign

end Sys2Proof.Machine
end

section
/-! SUPPORT. CVTF2U's function on the number a pattern denotes: one equation per range of the number, then what R100 asks of
each range (47_converters.md R100, R101). -/

namespace Sys2Proof

section
variable {bits : Word} {m : Nat}

/-- R100: every NaN gives Zero. -/
theorem f2u_nan (h : f64Value bits = .nan) : f2u bits = ⟨zeroPair, false, false⟩ := by
  simp only [f64Value] at h
  split at h
  · next hmax =>
    split at h
    · cases h
    · next hF => simp [f2u, hmax, hF]
  · split at h
    · cases h
    · cases h

/-- R100: an infinity gives MaxUint128 or Zero by its sign. -/
theorem f2u_inf {neg : Bool} (h : f64Value bits = .inf neg) :
    f2u bits = ⟨if neg then zeroPair else maxUint128, false, false⟩ := by
  simp only [f64Value] at h
  split at h
  · next hmax =>
    split at h
    · next hF =>
      obtain rfl : (f64Fields bits).sign = neg := F64Value.inf.inj h
      cases hsign : (f64Fields bits).sign <;> simp [f2u, hmax, hF, hsign]
    · cases h
  · split at h
    · cases h
    · cases h

/-- R100: both zeros give Zero, exactly. -/
theorem f2u_zero {neg : Bool} {e : Int} (h : f64Value bits = .finite neg 0 e) : f2u bits = ⟨zeroPair, true, true⟩ := by
  obtain ⟨-, ⟨hE, hF, -⟩ | ⟨-, -, hm, -⟩⟩ := f64Value_finite_cases h
  · simp [f2u, hE, ← hF]
  · omega

/-- R100: a negative number gives Zero. -/
theorem f2u_negative {e : Int} (h : f64Value bits = .finite true m e) (hm : m ≠ 0) :
    f2u bits = ⟨zeroPair, false, false⟩ := by
  obtain ⟨hsign, ⟨hE, hF, -⟩ | ⟨hE, hmax, -, -⟩⟩ := f64Value_finite_cases h
  · simp [f2u, hE, ← hF, hm, hsign]
  · simp [f2u, hE, hmax, hsign]

/-- R100: a normal whose exponent reaches past bit 127 gives MaxUint128. -/
theorem f2u_large {e : Int} (h : f64Value bits = .finite false m e) (he : 76 ≤ e) :
    f2u bits = ⟨maxUint128, false, false⟩ := by
  obtain ⟨hsign, ⟨-, -, he'⟩ | ⟨hE, hmax, -, he'⟩⟩ := f64Value_finite_cases h
  · omega
  · have hlarge : 1075 + 76 ≤ (f64Fields bits).exponent := by omega
    simp [f2u, hE, hmax, hsign, hlarge]

/-- R100: a normal with no bit below bit 0 and none past bit 127 gives its value. -/
theorem f2u_integer {k : Nat} (h : f64Value bits = .finite false m k) (hk : k < 76) :
    f2u bits = ⟨w128 (m * 2 ^ k : Nat), true, true⟩ := by
  obtain ⟨hsign, ⟨-, -, he⟩ | ⟨hE, hmax, rfl, he⟩⟩ := f64Value_finite_cases h
  · omega
  · have hexp : (f64Fields bits).exponent - 1075 = k := by omega
    have hsmall : ¬1075 + 76 ≤ (f64Fields bits).exponent := by omega
    have hint : 1075 ≤ (f64Fields bits).exponent := by omega
    simp only [f2u, hsign, hE, hmax, hexp, hsmall, hint, false_and, if_false, if_true, Bool.false_eq_true]

/-- R100: a number with bits below bit 0 has them dropped, and is exact where they are 0; a subnormal is all such bits. -/
theorem f2u_fraction {k : Nat} (h : f64Value bits = .finite false m (-(k : Int))) (hk : 0 < k) (hm : m ≠ 0) :
    f2u bits = ⟨w128 (m / 2 ^ k : Nat), true, decide (m % 2 ^ k = 0)⟩ := by
  obtain ⟨hsign, ⟨hE, hF, he⟩ | ⟨hE, hmax, rfl, he⟩⟩ := f64Value_finite_cases h
  · have hlt : m < 2 ^ k :=
      (lt_trans (hF ▸ (f64Fields_bounds bits).2) (Nat.pow_lt_pow_right one_lt_two (by omega : 52 < k)))
    rw [Nat.div_eq_of_lt hlt, Nat.mod_eq_of_lt hlt]
    simp [f2u, hE, hsign, ← hF, hm]
    decide
  · have hexp : 1075 - (f64Fields bits).exponent = k := by omega
    have hsmall : ¬1075 + 76 ≤ (f64Fields bits).exponent := by omega
    have hint : ¬1075 ≤ (f64Fields bits).exponent := by omega
    simp only [f2u, hsign, hE, hmax, hexp, hsmall, hint, false_and, if_false, Bool.false_eq_true]

end

/-- R100, R101: what the integer and the flags say of the number converted. `f2u_meets` ties it to `f2u`. -/
structure F2U.Meets (c : F2U) (q : ℚ) : Prop where
  ir_iff : c.ir = true ↔ 0 ≤ q ∧ q ≤ 2 ^ 128 - 1
  ex_iff : c.ex = true ↔ c.ir = true ∧ q = c.y.u
  truncated : c.ir = true → (c.y.u : Int) = ⌊q⌋
  below : q < 0 → c.y = zeroPair
  above : 2 ^ 128 - 1 < q → c.y = maxUint128

theorem F2U.meets_of_negative {q : ℚ} (h : q < 0) : F2U.Meets ⟨zeroPair, false, false⟩ q where
  ir_iff := by simp [h]
  ex_iff := by simp
  truncated hir := by simp at hir
  below _ := rfl
  above habove := by linarith

theorem F2U.meets_of_large {q : ℚ} (h : 2 ^ 128 - 1 < q) : F2U.Meets ⟨maxUint128, false, false⟩ q where
  ir_iff := by simp [h]
  ex_iff := by simp
  truncated hir := by simp at hir
  below hbelow := by linarith
  above _ := rfl

theorem F2U.meets_of_in_range {q : ℚ} {n : Nat} {ex : Bool} (h0 : 0 ≤ q) (hmax : q ≤ 2 ^ 128 - 1) (hn : ⌊q⌋ = n)
    (hex : ex = true ↔ q = n) : F2U.Meets ⟨w128 n, true, ex⟩ q := by
  have hle : (n : ℚ) ≤ q := by
    have hfloor := Int.floor_le q
    rwa [hn, Int.cast_natCast] at hfloor
  have hu : (w128 n).u = n := by
    apply u_w128_of_lt
    have hlt : (n : ℚ) < 2 ^ 128 := by linarith
    exact_mod_cast hlt
  constructor
  case ir_iff => simp [h0, hmax]
  case ex_iff => simpa [hu] using hex
  case truncated => exact fun _ => by rw [hu, hn]
  case below => exact fun hbelow => absurd h0 (not_le.mpr hbelow)
  case above => exact fun habove => absurd hmax (not_le.mpr habove)

/-- A quotient is a natural number exactly when nothing remains. -/
theorem mod_eq_zero_iff_cast_div {m d : Nat} (hd : 0 < d) : m % d = 0 ↔ (m : ℚ) / d = (m / d : Nat) := by
  have hd' : (d : ℚ) ≠ 0 := Nat.cast_ne_zero.mpr hd.ne'
  rw [div_eq_iff hd', ← Nat.cast_mul, Nat.cast_inj]
  have hdiv := Nat.div_add_mod' m d
  omega

/-- R100: the quotient of an integer of at most 53 bits, truncated. -/
theorem F2U.meets_of_quotient {m d : Nat} (hm : m < 2 ^ 53) (hd : 0 < d) :
    F2U.Meets ⟨w128 (m / d : Nat), true, decide (m % d = 0)⟩ ((m : ℚ) / d) := by
  have hle : (m : ℚ) / d ≤ m := div_le_self (Nat.cast_nonneg m) (Nat.one_le_cast.mpr hd)
  have hm' : (m : ℚ) < 2 ^ 53 := by exact_mod_cast hm
  refine F2U.meets_of_in_range (by positivity) (by linarith) ?_ ?_
  · rw [Rat.floor_natCast_div_natCast, Int.natCast_div]
  · rw [decide_eq_true_iff, mod_eq_zero_iff_cast_div hd]

/-- R100: an integer of at most 53 bits at an exponent below 76 is in range. -/
theorem mul_two_pow_le_max {m k : Nat} (hm : m < 2 ^ 53) (hk : k < 76) : m * 2 ^ k ≤ 2 ^ 128 - 1 := by
  have hlt : m * 2 ^ k < 2 ^ 53 * 2 ^ 75 :=
    Nat.mul_lt_mul_of_lt_of_le hm (Nat.pow_le_pow_right two_pos (by omega)) (by positivity)
  omega

/-- R100, R101: `f2u` on a positive number: with bits below bit 0, in range without them, or too large. -/
theorem f2u_meets_positive {bits : Word} {m : Nat} {e : Int} (h : f64Value bits = .finite false m e) (hm : m ≠ 0) :
    (f2u bits).Meets (m * 2 ^ e) := by
  obtain ⟨hlt, hnormal⟩ := f64Value_finite_bounds h
  rcases lt_or_ge e 0 with hneg | hnonneg
  · obtain ⟨k, hk⟩ := Int.eq_ofNat_of_zero_le (show 0 ≤ -e by omega)
    obtain rfl : e = -(k : Int) := by omega
    have hval : (m : ℚ) * 2 ^ (-(k : Int)) = m / (2 ^ k : Nat) := by
      rw [zpow_neg, zpow_natCast, ← div_eq_mul_inv]
      push_cast
      rfl
    rw [hval, f2u_fraction h (by omega) hm]
    exact F2U.meets_of_quotient hlt (Nat.two_pow_pos k)
  · obtain ⟨k, rfl⟩ := Int.eq_ofNat_of_zero_le hnonneg
    have hval : (m : ℚ) * 2 ^ (k : Int) = (m * 2 ^ k : Nat) := by push_cast; rw [zpow_natCast]
    rw [hval]
    rcases Nat.lt_or_ge k 76 with hsmall | hlarge
    · rw [f2u_integer h hsmall]
      have hle : ((m * 2 ^ k : Nat) : ℚ) ≤ (2 ^ 128 - 1 : Nat) := Nat.cast_le.mpr (mul_two_pow_le_max hlt hsmall)
      refine F2U.meets_of_in_range (Nat.cast_nonneg _) (hle.trans (by norm_num)) (Int.floor_natCast _) (by simp)
    · rw [f2u_large h (by omega)]
      apply F2U.meets_of_large
      have hge : 2 ^ 52 * 2 ^ 76 ≤ m * 2 ^ k := Nat.mul_le_mul (by omega) (Nat.pow_le_pow_right two_pos hlarge)
      have hge' : ((2 ^ 52 * 2 ^ 76 : Nat) : ℚ) ≤ (m * 2 ^ k : Nat) := Nat.cast_le.mpr hge
      refine lt_of_lt_of_le ?_ hge'
      norm_num

/-- R100, R101: `f2u` on every number, by its sign. -/
theorem f2u_meets {bits : Word} {q : ℚ} (hq : (f64Value bits).toRat = some q) : (f2u bits).Meets q := by
  obtain ⟨neg, m, e, h, rfl⟩ := exists_finite_of_toRat hq
  by_cases hm : m = 0
  · subst hm
    have hzero : (⟨zeroPair, true, true⟩ : F2U).Meets 0 :=
      F2U.meets_of_in_range (n := 0) le_rfl (by norm_num) Int.floor_zero (by simp)
    simpa [f2u_zero h] using hzero
  · cases neg with
    | false => simpa using f2u_meets_positive h hm
    | true =>
      have hpos : (0 : ℚ) < m * 2 ^ e := by positivity
      rw [f2u_negative h hm]
      exact F2U.meets_of_negative (by simpa using hpos)

end Sys2Proof
end

section
/-! PROOFS. The conversion from float64 (47_converters.md R100, R101). -/

namespace Sys2Proof.Machine

/-- Settles O47: `f2u` on numbers, infinities and NaNs. -/
theorem cvtf2uTruncatesFlagsAndClamps : Obligations.Cvtf2uTruncatesFlagsAndClamps := by
  intro s a b
  refine ⟨decode_of_code (m := .cvtf2u) rfl, (f2u a.lo).y, (f2u a.lo).ir, (f2u a.lo).ex, exec_cvtf2u a b s, ?number,
    ?inf, ?nan⟩
  case number =>
    intro q hq
    have hmeets := f2u_meets hq
    exact ⟨hmeets.ir_iff, hmeets.ex_iff, hmeets.truncated, hmeets.below, hmeets.above⟩
  case inf =>
    intro neg hinf
    rw [f2u_inf hinf]
    exact ⟨rfl, rfl, rfl⟩
  case nan =>
    intro hnan
    rw [f2u_nan hnan]
    exact ⟨rfl, rfl, rfl⟩

end Sys2Proof.Machine
end
